-- ==== Sys2Proof/Word.lean ====
section
/-! DEFINITION. The number types of the engine (spec/00_scope.md R7, R8, R9): fixed-width unsigned words, and a
code as a sequence of bits. Everything is unsigned (R8: "the block has no signed quantity anywhere"). -/

namespace Sys2Proof

/-- A word of the register port: 32 bits (R64), also a command word (R100). -/
abbrev Word := BitVec 32

/-- A byte of a stream, of the writer's accumulator, of a node's `sym` field (R32, R38, R40). -/
abbrev Byte := BitVec 8

/-- A frequency counter, `FREQ_W` = 32 bits (R7, R22). -/
abbrev Freq := BitVec 32

/-- A scheduler priority and a node's frequency field, `PRIO_W` = 39 bits (R7, R31, R32). -/
abbrev Prio := BitVec 39

/-- An insertion sequence number, `SEQ_W` = 8 bits (R7, R31). -/
abbrev Seq8 := BitVec 8

/-- A node index, `NODE_IDX_W` = 14 bits (R7, R32). -/
abbrev NodeIdx := BitVec 14

/-- A byte counter, `CNT_W` = 64 bits (R7, R27, R28). -/
abbrev Count := BitVec 64

/-- A byte address of the register port, `ADDR_W` = 20 bits (R7, R64). -/
abbrev Addr := BitVec 20

/-- A symbol: a byte value 0 to 127 (`NSYM` = 128, R6). -/
abbrev Symbol := Fin 128

/-- A code: a finite sequence of bits, first bit first (R9); `false` is bit 0, `true` is bit 1. -/
abbrev Code := List Bool

end Sys2Proof
end

