-- ==== Sys2Proof/Config.lean ====
section
/-! DEFINITION. The implementation parameters of spec/00_scope.md R6 and R7, at the values the spec takes, and the one
OPEN value (R247, `round5`). The widths `FREQ_W`, `PRIO_W`, `SEQ_W`, `NODE_IDX_W`, `CNT_W`, `ADDR_W` are the types of
Word.lean; `NSYM` is the type `Symbol`. -/

namespace Sys2Proof.Config

/-- `NMERGE` (R6): merges in one build. -/
def nmerge : Nat := 127

/-- `HEAP_CAP` (R7): entries of the scheduler, exactly `NSYM`. -/
def heapCap : Nat := 128

/-- `NODE_CAP` (R7): nodes of the arena, 1 + 128 × 127. -/
def nodeCap : Nat := 16257

/-- `CODE_MAX` (R7): the greatest length of a code in bits. -/
def codeMax : Nat := 127

/-- `PRIO_EMPTY` (R7, R144): 2^39 − 1, what `peekMinPriority` answers when the scheduler is empty. -/
def prioEmpty : Prio := BitVec.ofNat 39 549755813887

/-- `SENT` (R7, R32): the `sym` field of a node that carries no symbol. -/
def sent : Byte := 0xFF#8

/-- The rounding of the two statistics is OPEN (R247): which of the two neighbouring multiples of 10^-5 is taken for a
number that is not itself one. A free value: no body, nothing in Lean can evaluate it (log entry 8). -/
opaque roundUp : Rat → Bool

end Sys2Proof.Config
end

