-- ==== Sys2Proof/Syntax.lean ====
section
/-! DEFINITION. The fifteen commands of spec/30_encoding.md R101, one constructor per row of spec/opcode_table.json. No
command has an operand, an immediate, a register number or a mode field (R102). -/

namespace Sys2Proof

/-- The commands of the engine (R101), in the table's order. -/
inductive Instr where
  /-- `NOP`, R280. -/
  | nop
  /-- `CLRERR`, R281. -/
  | clrerr
  /-- `SRST`, R282. -/
  | srst
  /-- `FCLR`, R131. -/
  | fclr
  /-- `ANALYZE`, R132: a stream command. -/
  | analyze
  /-- `HSEED`, R161. -/
  | hseed
  /-- `HMERGE`, R162. -/
  | hmerge
  /-- `HTAKE`, R163. -/
  | htake
  /-- `BUILD`, R164. -/
  | build
  /-- `GEN`, R181. -/
  | gen
  /-- `RECON`, R211. -/
  | recon
  /-- `HIDUMP`, R193. -/
  | hidump
  /-- `HILOAD`, R196: a stream command. -/
  | hiload
  /-- `COMPRESS`, R242: a stream command. -/
  | compress
  /-- `DECOMPRESS`, R262: a stream command. -/
  | decompress
  deriving DecidableEq, Repr

/-- The column "stream" of R101: the command consumes `INQ` up to an `eos` item. -/
def Instr.isStream : Instr → Bool
  | .nop => false
  | .clrerr => false
  | .srst => false
  | .fclr => false
  | .analyze => true
  | .hseed => false
  | .hmerge => false
  | .htake => false
  | .build => false
  | .gen => false
  | .recon => false
  | .hidump => false
  | .hiload => true
  | .compress => true
  | .decompress => true

end Sys2Proof
end

