-- ==== Sys2Proof/WellFormed.lean ====
section
/-! DEFINITION. Well-formed command words and commands (spec/30_encoding.md R100, R101, R104). A command has no operand
(R102), so the only checks are on the word: its `ZERO` field is 0 and its `OP` field is one of the fifteen opcodes. -/

namespace Sys2Proof

/-- The field `OP` of a command word, bits 7:0 (R24, R100). -/
def opField (w : Word) : Byte := w.extractLsb' 0 8

/-- The field `ZERO` of a command word, bits 31:8 (R100). -/
def zeroField (w : Word) : BitVec 24 := w.extractLsb' 8 24

/-- The fifteen values of the column `OP` of R101. -/
def opcodes : List Byte :=
  [0x00#8, 0x01#8, 0x02#8, 0x10#8, 0x11#8, 0x20#8, 0x21#8, 0x22#8, 0x23#8, 0x30#8, 0x31#8, 0x40#8, 0x41#8, 0x50#8, 0x51#8]

/-- A command word is legal: `ZERO` = 0 and `OP` is listed (R104: every other word is illegal). -/
def wellFormedWord (w : Word) : Bool := zeroField w == 0#24 && opcodes.contains (opField w)

/-- A command is well formed: R102 gives it no operand, so there is nothing to check. -/
def Instr.wellFormed : Instr → Bool
  | .nop | .clrerr | .srst | .fclr | .analyze | .hseed | .hmerge | .htake | .build | .gen | .recon | .hidump | .hiload
  | .compress | .decompress => true

/-- A code fits a table entry: at most `CODE_MAX` = 127 bits (R35). -/
def Code.fits (c : Code) : Bool := c.length ≤ Config.codeMax

end Sys2Proof
end

