-- ==== Sys2Proof/Decode.lean ====
section
/-! DEFINITION. The command decoder and encoder (spec/30_encoding.md R100, R101, R104). The decoder is total on 32-bit
words and rejects every illegal word by name; the encoder gives the column "word" of R101. A command is one 32-bit word
moved whole by the port (R74, R105), so there is no byte order and no length to decode. -/

namespace Sys2Proof

/-- Why a word is no command (R104). -/
inductive IllegalWord where
  /-- `ZERO` (bits 31:8) is not 0. -/
  | zeroFieldSet (w : Word)
  /-- `OP` is not one of the fifteen opcodes. -/
  | unknownOpcode (w : Word)
  deriving DecidableEq, Repr

/-- The opcode map of R101, by the `OP` field. -/
def opcodeMap (op : Nat) : Option Instr :=
  match op with
  | 0x00 => some .nop
  | 0x01 => some .clrerr
  | 0x02 => some .srst
  | 0x10 => some .fclr
  | 0x11 => some .analyze
  | 0x20 => some .hseed
  | 0x21 => some .hmerge
  | 0x22 => some .htake
  | 0x23 => some .build
  | 0x30 => some .gen
  | 0x31 => some .recon
  | 0x40 => some .hidump
  | 0x41 => some .hiload
  | 0x50 => some .compress
  | 0x51 => some .decompress
  | _ => none

/-- The decoder of R101: the word is one of the fifteen, or it is illegal (R104). -/
def decode (w : Word) : Except IllegalWord Instr :=
  if zeroField w = 0#24 then
    match opcodeMap (opField w).toNat with
    | some i => .ok i
    | none => .error (.unknownOpcode w)
  else .error (.zeroFieldSet w)

/-- The column "word" of R101. -/
def encode : Instr → Word
  | .nop => 0x00000000#32
  | .clrerr => 0x00000001#32
  | .srst => 0x00000002#32
  | .fclr => 0x00000010#32
  | .analyze => 0x00000011#32
  | .hseed => 0x00000020#32
  | .hmerge => 0x00000021#32
  | .htake => 0x00000022#32
  | .build => 0x00000023#32
  | .gen => 0x00000030#32
  | .recon => 0x00000031#32
  | .hidump => 0x00000040#32
  | .hiload => 0x00000041#32
  | .compress => 0x00000050#32
  | .decompress => 0x00000051#32

/-- The first `nbits` bits of `w` as a command word, where they fit 32 bits. -/
def tableWord (nbits w : Nat) : Option Word :=
  if w % 2 ^ nbits < 2 ^ 32 then some (BitVec.ofNat 32 (w % 2 ^ nbits)) else none

/-- The instruction this decoder reads from the opcode table's bits `w` (a row has 32 of them, bit 0 least
significant). -/
def decodeTableWord (nbits w : Nat) : Option Instr :=
  match tableWord nbits w with
  | some v => (decode v).toOption
  | none => none

end Sys2Proof
end

