-- ==== Sys2Proof/Machine/State.lean ====
section
/-! DEFINITION. The whole state of the engine (spec/10_state.md R20), as plain data, with the reset values of R44, the
two agents' pending work (spec/20_memory.md R60), and the reasons a step can stop. -/

namespace Sys2Proof.Machine

/-- A scheduler entry (R31): priority, insertion sequence number, node index of its tree's root. -/
structure Entry where
  prio : Prio
  seq : Seq8
  root : NodeIdx
  deriving DecidableEq, Repr

/-- A node of the arena (R32). `sym` is a symbol 0 to 127 or `SENT`. -/
structure Node where
  sym : Byte
  left : Option NodeIdx
  right : Option NodeIdx
  freq : Prio
  deriving DecidableEq, Repr

/-- An item of the IN stream (R38). -/
inductive Item where
  | byte (b : Byte)
  | eos
  deriving DecidableEq, Repr

/-- `PHASE` (R39). -/
inductive Phase where
  | start
  | run
  deriving DecidableEq, Repr

/-- `PST`, the state of the `.hi` parser (R42, R197). -/
inductive ParserState where
  | first
  | sol
  | idx
  | sep
  | code
  deriving DecidableEq, Repr

/-- One line of a host program (R64, R106). `read` and `write` are the two host accesses, with their size in bytes (R64,
R75); `wait` and `drain` are the two repeating lines of R106. -/
inductive HostOp where
  /-- `MemRead(addr, size)`. -/
  | read (addr : Addr) (size : Nat)
  /-- `MemWrite(addr, size, v)`. -/
  | write (addr : Addr) (size : Nat) (v : Word)
  /-- Repeat `MemRead(STATUS, 4)` until bit 0 (`BUSY`) is 0. -/
  | wait
  /-- Repeat `MemRead(OUT_DATA, 4)` until bit 31 (`VALID`) is 0. -/
  | drain
  deriving DecidableEq, Repr

/-- How an access ends (R64): `OK`, `OK` with a word for a read, or `BUSERR`. -/
inductive Response where
  | ok
  | data (w : Word)
  | busErr
  deriving DecidableEq, Repr

/-- Whose event is next (R60, R78): a host access, an engine step, or the reset input (R340). -/
inductive Turn where
  | host
  | engine
  | reset
  deriving DecidableEq, Repr

/-- The state. The first 27 fields are the elements of R20 (`HN` is `heap.length` and `NN` is `arena.length`, R31 and
R32: entries at or above them hold no value); the last three are the model's own (log entries 1 and 2). -/
structure State where
  /-- `FREQ[0..127]`, R22. -/
  freq : Vector Freq 128
  /-- `H[0..HN-1]`, R31. -/
  heap : List Entry
  /-- `HSEQ`, R31. -/
  hseq : Seq8
  /-- `N[0..NN-1]`, R32. -/
  arena : List Node
  /-- `ROOT`, R30. -/
  root : NodeIdx
  /-- `CT[0..127]`, R35. -/
  ct : Vector Code 128
  /-- `TREE_VALID`, R23. -/
  treeValid : Bool
  /-- `TABLE_VALID`, R23. -/
  tableValid : Bool
  /-- `BUSY`, R23. -/
  busy : Bool
  /-- `CMDR`, R39. -/
  cmdr : Word
  /-- `PHASE`, R39. -/
  phase : Phase
  /-- `ERR.CODE`, R26; 0 when no fault is recorded. -/
  err : BitVec 8
  /-- `ERRINFO`, R26. -/
  errinfo : Word
  /-- `WARN.NONASCII`, R23, R27. -/
  warn : Bool
  /-- `NONASCII`, R27. -/
  nonascii : Count
  /-- `IN_BYTES`, R28. -/
  inBytes : Count
  /-- `OUT_BYTES`, R28. -/
  outBytes : Count
  /-- `INQ`, R38, head first. -/
  inq : List Item
  /-- `OUTQ`, R38, head first. -/
  outq : List Byte
  /-- `ACC`, R40. -/
  acc : Byte
  /-- `WCNT`, R40. -/
  wcnt : Fin 8
  /-- `RBYTE`, R41. -/
  rbyte : Byte
  /-- `RCNT`, R41. -/
  rcnt : Fin 9
  /-- `CUR`, R41. -/
  cur : NodeIdx
  /-- `PST`, R42. -/
  pst : ParserState
  /-- `PIDX`, R42. -/
  pidx : Symbol
  /-- `PBUF`, R42. -/
  pbuf : Code
  /-- The host's accesses still to come, first one first (R60, R61). The model's own field. -/
  host : List HostOp
  /-- The order of the next events (R60, R78). The model's own field. -/
  sched : List Turn
  /-- The responses the port has given, oldest first (R64). The model's own field. -/
  resps : List Response
  deriving DecidableEq, Repr

/-- `HN` (R31): the number of entries the scheduler holds. -/
def State.hn (s : State) : Nat := s.heap.length

/-- `NN` (R32): the number of nodes allocated. -/
def State.nn (s : State) : Nat := s.arena.length

/-- The reset values of R44; the model's own three fields are empty (log entry 2). -/
def State.reset : State where
  freq := Vector.replicate 128 0#32
  heap := []
  hseq := 0#8
  arena := []
  root := 0#14
  ct := Vector.replicate 128 []
  treeValid := false
  tableValid := false
  busy := false
  cmdr := 0#32
  phase := .start
  err := 0#8
  errinfo := 0#32
  warn := false
  nonascii := 0#64
  inBytes := 0#64
  outBytes := 0#64
  inq := []
  outq := []
  acc := 0#8
  wcnt := 0
  rbyte := 0#8
  rcnt := 0
  cur := 0#14
  pst := .first
  pidx := 0
  pbuf := []
  host := []
  sched := []
  resps := []

/-- Why a step stops. None of these is a fault of the spec: the spec's faults are recorded in `ERR` and the machine goes
on (R310). Each one is a case R83 says no rule meets ("a model that finds one has found an error in this spec or in
itself"), so each is safe (log entry 6). -/
inductive Fault where
  /-- A rule reads `N[n]` with `n` at or above `NN`, which holds no value (R32, R83). Raised by `readNode`. Safe. -/
  | nodeIndexOutOfRange (n : NodeIdx)
  /-- The walk of `GEN` stands at an internal node with a path of 127 bits already, so a child's path would not fit a
  table entry (R43, R181). Raised by `visit`. Safe. -/
  | pathTooLong (n : NodeIdx)
  /-- `readBit` is called on an exhausted reader (R224, R225). Raised by `readBit`. Safe. -/
  | readerExhausted
  deriving DecidableEq, Repr

/-- Why an instruction has no meaning. -/
inductive Refusal where
  /-- An instruction the model gives no meaning to, by its mnemonic. Raised by an arm of `exec` only; no arm does. Safe. -/
  | notModelled (mnemonic : String)
  deriving DecidableEq, Repr

end Sys2Proof.Machine
end

