-- ==== Sys2Proof/Machine/Flags.lean ====
section
/-! DEFINITION. The flags of spec/10_state.md R23 and the registers made of them and of the counters (R25 to R30). The
engine has no condition codes: a flag is only ever a command's precondition (R23). -/

namespace Sys2Proof.Machine

/-- One flag as a bit. -/
def flagBit (b : Bool) : Word := if b then 1#32 else 0#32

/-- `TREE_VALID <- v` (R23). -/
def State.setTreeValid (s : State) (v : Bool) : State := { s with treeValid := v }

/-- `TABLE_VALID <- v` (R23). -/
def State.setTableValid (s : State) (v : Bool) : State := { s with tableValid := v }

/-- `BUSY <- v` (R23). -/
def State.setBusy (s : State) (v : Bool) : State := { s with busy := v }

/-- `NONASCII <- 0 ; WARN.NONASCII <- 0`: the start of `ANALYZE` and `COMPRESS` (R132, R242). -/
def State.clearWarning (s : State) : State := { s with nonascii := 0#64, warn := false }

/-- `NONASCII <- NONASCII + 1 ; WARN.NONASCII <- 1` (R132, R243, R305). -/
def State.noteNonAscii (s : State) : State := { s with nonascii := s.nonascii + 1#64, warn := true }

/-- `FAULT` (R25): a fault is recorded. -/
def State.faulted (s : State) : Bool := s.err != 0#8

/-- `STATUS` (R25). -/
def State.status (s : State) : Word :=
  flagBit s.busy ||| flagBit s.faulted <<< 1 ||| flagBit s.treeValid <<< 2 ||| flagBit s.tableValid <<< 3
    ||| flagBit s.inq.isEmpty <<< 4 ||| flagBit (!s.outq.isEmpty) <<< 5 ||| flagBit s.warn <<< 6

/-- The low half of a 64-bit counter (R27, R28, R74 (b)). -/
def lowHalf (c : Count) : Word := c.extractLsb' 0 32

/-- The high half of a 64-bit counter (R27, R28, R74 (b)). -/
def highHalf (c : Count) : Word := c.extractLsb' 32 32

/-- Bits 31:0 of a 39-bit number (R29, R36). -/
def prioLowWord (p : Prio) : Word := p.extractLsb' 0 32

/-- Bits 38:32 of a 39-bit number in bits 6:0 (R29, R36). -/
def prioHighWord (p : Prio) : Word := (p.extractLsb' 32 7).zeroExtend 32

/-- The register `ROOT` (R30): bits 13:0 the index, bit 31 `TREE_VALID`. -/
def State.rootWord (s : State) : Word := s.root.zeroExtend 32 ||| flagBit s.treeValid <<< 31

/-- The register `HEAP_COUNT` (R29). -/
def State.heapCountWord (s : State) : Word := (BitVec.ofNat 8 s.hn).zeroExtend 32

/-- The register `NODE_COUNT` (R30). -/
def State.nodeCountWord (s : State) : Word := (BitVec.ofNat 15 s.nn).zeroExtend 32

/-- The word `m` of a node's host view (R36). -/
def nodeWord (n : Node) (m : Fin 4) : Word :=
  match m with
  | 0 => n.sym.zeroExtend 32 ||| flagBit n.left.isSome <<< 8 ||| flagBit n.right.isSome <<< 9
  | 1 => (n.left.getD 0#14).zeroExtend 32 ||| (n.right.getD 0#14).zeroExtend 32 <<< 16
  | 2 => prioLowWord n.freq
  | 3 => prioHighWord n.freq

/-- The 128-bit number `V` of R35: bit `127 − k` is bit `k` of the code, every other bit 0. -/
def codeBits (c : Code) : BitVec 128 := BitVec.ofNat 128 ((c.map Bool.toNat).foldl (fun v b => 2 * v + b) 0 * 2 ^ (128 - c.length))

/-- `CT_LEN` (R35): bits 6:0 the length of the code. -/
def codeLenWord (c : Code) : Word := (BitVec.ofNat 7 c.length).zeroExtend 32

/-- `CT_BITS[·][j]` (R35): bits 32j+31 to 32j of `V`. -/
def codeBitsWord (c : Code) (j : Fin 4) : Word := (codeBits c).extractLsb' (32 * j.val) 32

end Sys2Proof.Machine
end

