-- ==== Sys2Proof/Machine/Operands.lean ====
section
/-! DEFINITION. What a command works on. A command has no operand field (spec/30_encoding.md R102): its inputs are state
elements reached by direct index (spec/20_memory.md R83) and the items of the IN stream (R70). Also the engine's output
(R71), the character classes of the `.hi` parser (spec/44_codetable_io.md R194) and the decimal digits of R191 (c). -/

namespace Sys2Proof.Machine

/-- The symbols 0 to 127 in ascending order: the range of every `for s in 0..127` (R10). -/
def symbols : List Symbol := List.finRange 128

/-- A byte below 128 as a symbol (R6). -/
def symbolOf (b : Byte) : Option Symbol := if h : b.toNat < 128 then some ⟨b.toNat, h⟩ else none

/-- The value of a node's `sym` field for a symbol (R32). -/
def symByte (s : Symbol) : Byte := BitVec.ofNat 8 s.val

/-- `FREQ[b]` (R22, R83). -/
def State.freqAt (s : State) (b : Symbol) : Freq := s.freq[b.val]

/-- `FREQ[b] <- v`. -/
def State.setFreq (s : State) (b : Symbol) (v : Freq) : State := { s with freq := s.freq.set b.val v }

/-- `CT[b]` (R35, R83). -/
def State.codeAt (s : State) (b : Symbol) : Code := s.ct[b.val]

/-- `CT[b] <- c`. -/
def State.setCode (s : State) (b : Symbol) (c : Code) : State := { s with ct := s.ct.set b.val c }

/-- A fresh table: every slot the empty code (R181, R196). -/
def emptyTable : Vector Code 128 := Vector.replicate 128 []

/-- 128 zero counters (R131, R132). -/
def zeroFreq : Vector Freq 128 := Vector.replicate 128 0#32

/-- `N[n]` (R32, R83): a node at or above `NN` holds no value. -/
def nodeAt (arena : List Node) (n : NodeIdx) : Option Node := arena[n.toNat]?

/-- `N[n] <- v` for `n` below `NN`. -/
def State.setNode (s : State) (n : NodeIdx) (v : Node) : State := { s with arena := s.arena.set n.toNat v }

/-- `leaf` (R34): both children are absent. -/
def Node.isLeaf (n : Node) : Bool := n.left.isNone && n.right.isNone

/-- The child a bit leads to: 0 left, 1 right (R9, R261). -/
def Node.child (n : Node) (bit : Bool) : Option NodeIdx := if bit then n.right else n.left

/-- `N[n].left <- c` or `N[n].right <- c` (R211). -/
def Node.setChild (n : Node) (bit : Bool) (c : NodeIdx) : Node :=
  if bit then { n with right := some c } else { n with left := some c }

/-- `Emit` of each byte in order (R71): appended to the tail of `OUTQ`. -/
def State.emit (s : State) (bs : List Byte) : State := { s with outq := s.outq ++ bs }

/-- `InPop` (R70) of a queue that is not empty leaves its tail. -/
def State.popIn (s : State) : State := { s with inq := s.inq.tail }

/-- `LF` (R194). -/
def isLF (c : Byte) : Bool := c == 0x0A#8

/-- `DIGIT` (R194): 0x30 to 0x39. -/
def isDigit (c : Byte) : Bool := 0x30 ≤ c.toNat && c.toNat ≤ 0x39

/-- `BIT` (R194): 0x30 and 0x31. -/
def isBit (c : Byte) : Bool := c == 0x30#8 || c == 0x31#8

/-- `WS` (R194): space and horizontal tab. -/
def isWS (c : Byte) : Bool := c == 0x20#8 || c == 0x09#8

/-- The value of a digit, `c − 0x30` (R197). -/
def digitVal (c : Byte) : Nat := c.toNat - 0x30

/-- The bit a `BIT` character stands for (R191 (e)). -/
def bitOfChar (c : Byte) : Bool := c == 0x31#8

/-- The character of a decimal digit (R191 (c)). -/
def digitChar (d : Nat) : Byte := BitVec.ofNat 8 (0x30 + d)

/-- `dec(i)` for an index 0 to 127: 1, 2 or 3 digits, most significant first, no leading zero (R191 (c), R192). -/
def decDigits (i : Symbol) : List Byte :=
  if i.val < 10 then [digitChar i.val]
  else if i.val < 100 then [digitChar (i.val / 10), digitChar (i.val % 10)]
  else [digitChar (i.val / 100), digitChar (i.val / 10 % 10), digitChar (i.val % 10)]

/-- The character of a code bit (R191 (e)). -/
def bitChar (b : Bool) : Byte := if b then 0x31#8 else 0x30#8

/-- `chars(c)` (R192). -/
def codeChars (c : Code) : List Byte := c.map bitChar

end Sys2Proof.Machine
end

