-- ==== Sys2Proof/Machine/Ops.lean ====
section
/-! DEFINITION. The shared operations: how a statement ends (R10, R11), the fault codes (spec/60_exceptions.md R301), taking
a fault (R310) and acknowledging one (R281, R313), the reset function (R44, R341), the shape of an engine step of a
command (spec/20_memory.md R62), and the arena's operations (spec/10_state.md R33). -/

namespace Sys2Proof.Machine

/-- The thirteen fault codes (R301). -/
inductive ErrCode where
  | invalidCodeChar
  | missingTree
  | heapEmpty
  | heapFull
  | nodeFull
  | badPath
  | hiFormat
  | codeTooLong
  | freqOvf
  | countOvf
  | illegalCmd
  | buildIncomplete
  | missingTable
  deriving DecidableEq, Repr

/-- The numbers of R301. -/
def ErrCode.code : ErrCode → BitVec 8
  | .invalidCodeChar => 1#8
  | .missingTree => 2#8
  | .heapEmpty => 3#8
  | .heapFull => 4#8
  | .nodeFull => 5#8
  | .badPath => 6#8
  | .hiFormat => 7#8
  | .codeTooLong => 8#8
  | .freqOvf => 9#8
  | .countOvf => 10#8
  | .illegalCmd => 11#8
  | .buildIncomplete => 12#8
  | .missingTable => 13#8

/-- How a piece of a command's pseudocode ends: with a value in a state, at a `raise` in the state its earlier statements
left (R10, R311), or at a point R83 says no rule meets. -/
inductive Res (α : Type) where
  | ok (a : α) (s : State)
  | raised (e : ErrCode) (info : Word) (s : State)
  | stuck (f : Fault)

/-- Statement after statement (R11): nothing after a `raise` happens (R310). -/
def Res.andThen {α β : Type} (r : Res α) (k : α → State → Res β) : Res β :=
  match r with
  | .ok a s => k a s
  | .raised e info s => .raised e info s
  | .stuck f => .stuck f

/-- `for x in xs` (R10): in the list's order. -/
def forEach {α : Type} (body : α → State → Res Unit) : List α → State → Res Unit
  | [], s => .ok () s
  | x :: xs, s => (body x s).andThen fun _ t => forEach body xs t

/-- `repeat n times`. -/
def repeatTimes (body : State → Res Unit) : Nat → State → Res Unit
  | 0, s => .ok () s
  | n + 1, s => (body s).andThen fun _ t => repeatTimes body n t

/-- TAKING A FAULT, `raise E(info)` (R310): `ERR`, `ERRINFO` and `BUSY` are written, nothing else is saved or changed. -/
def takeFault (e : ErrCode) (info : Word) (s : State) : State := { s with err := e.code, errinfo := info, busy := false }

/-- RETURN FROM A FAULT, the effect of `CLRERR` (R281, R313): `ERR`, `ERRINFO`, `WARN` are cleared and `INQ` is emptied. -/
def acknowledgeFault (s : State) : State := { s with err := 0#8, errinfo := 0#32, warn := false, inq := [] }

/-- The reset function (R341): every element of R20 at its reset value (R44). The host's own fields are no element of
the engine and stay (log entry 2). -/
def resetEngine (s : State) : State := { State.reset with host := s.host, sched := s.sched, resps := s.resps }

/-- How an engine step ends once its statements have run (R62, R310). -/
def stepEnd (close : State → State) : Res Unit → Host.Outcome State Fault Refusal
  | .ok _ s => .next (close s)
  | .raised e info s => .next (takeFault e info s)
  | .stuck f => .fault f

/-- The engine step of a command that is no stream command (R62, R63): its rule whole, then `BUSY <- 0`. -/
def wholeStep (rule : State → Res Unit) (s : State) : Host.Outcome State Fault Refusal :=
  stepEnd (fun t => t.setBusy false) (rule s)

/-- The engine step of a stream command (R62): the start rule and `PHASE <- RUN`, or one item and its rule, `eos`
ending the command. With `PHASE` = `RUN` and no item the step is not enabled and the engine does nothing (held). -/
def streamStep (startRule : State → Res Unit) (byteRule : Byte → State → Res Unit) (endRule : State → Res Unit)
    (s : State) : Host.Outcome State Fault Refusal :=
  match s.phase with
  | .start => stepEnd (fun t => { t with phase := .run }) (startRule s)
  | .run =>
    match s.inq with
    | [] => .next s
    | .byte b :: _ => stepEnd id (byteRule b s.popIn)
    | .eos :: _ => stepEnd (fun t => t.setBusy false) (endRule s.popIn)

/-- `alloc(sym, left, right, freq) -> n` (R33). -/
def alloc (nd : Node) (s : State) : Res NodeIdx :=
  if s.nn = Config.nodeCap then .raised .nodeFull 0#32 s
  else .ok (BitVec.ofNat 14 s.nn) { s with arena := s.arena ++ [nd] }

/-- A read of `N[n]` (R32, R83). -/
def readNode (n : NodeIdx) (s : State) : Res Node :=
  match nodeAt s.arena n with
  | some nd => .ok nd s
  | none => .stuck (.nodeIndexOutOfRange n)

/-- A raise's `info` made of a table index and a byte: bits 14:8 and bits 7:0 (R197, R301). -/
def lineInfo (i : Symbol) (c : Byte) : Word := BitVec.ofNat 32 (i.val * 256 + c.toNat)

end Sys2Proof.Machine
end

