-- ==== Sys2Proof/Machine/CodeGen.lean ====
section
/-! DEFINITION. The code generator (spec/43_codegen.md): `GEN`, a depth-first walk, left subtree first. -/

namespace Sys2Proof.Machine

/-- A leaf's assignment (R181): a leaf that carries a symbol gives it the path as its code. -/
def assignCode (sym : Byte) (path : Code) (table : Vector Code 128) : Vector Code 128 :=
  match symbolOf sym with
  | some c => table.set c.val path
  | none => table

/-- `visit(n, path)` (R181), filling a table. `fuel` is how many bits a path may still take, plus 1: a path has at most
127 bits (R43), so the walk starts with 128. -/
def visit (arena : List Node) : Nat → NodeIdx → Code → Vector Code 128 → Except Fault (Vector Code 128)
  | 0, n, _, _ => .error (.pathTooLong n)
  | fuel + 1, n, path, table =>
    match nodeAt arena n with
    | none => .error (.nodeIndexOutOfRange n)
    | some nd =>
      if nd.isLeaf then .ok (assignCode nd.sym path table)
      else
        match nd.left, nd.right with
        | some l, some r =>
          match visit arena fuel l (path ++ [false]) table with
          | .ok table' => visit arena fuel r (path ++ [true]) table'
          | .error f => .error f
        | some l, none => visit arena fuel l (path ++ [false]) table
        | none, some r => visit arena fuel r (path ++ [true]) table
        | none, none => .ok table

/-- The rule of `GEN` (R181). -/
def genRule (s : State) : Res Unit :=
  if s.treeValid = false then .raised .missingTree 0#32 s
  else
    match visit s.arena 128 s.root [] emptyTable with
    | .ok table => .ok () ({ s with ct := table }.setTableValid true)
    | .error f => .stuck f

/-- `GEN` (R181). -/
def execGen (s : State) : Host.Outcome State Fault Refusal := wholeStep genRule s

end Sys2Proof.Machine
end

