-- ==== Sys2Proof/Machine/CodeTableIO.lean ====
section
/-! DEFINITION. The code table image (spec/44_codetable_io.md): the `.hi` format, `HIDUMP` and `HILOAD`. -/

namespace Sys2Proof.Machine

/-- `line(i, c)` (R192). -/
def hiLine (i : Symbol) (c : Code) : List Byte := decDigits i ++ [0x20#8] ++ codeChars c ++ [0x0A#8]

/-- `hi_image(T)` (R192). -/
def hiImage (table : Vector Code 128) : List Byte := 0x0A#8 :: symbols.flatMap fun i => hiLine i table[i.val]

/-- The rule of `HIDUMP` (R193). -/
def hidumpRule (s : State) : Res Unit :=
  if s.tableValid = false then .raised .missingTable 0#32 s
  else .ok () (s.emit (hiImage s.ct))

/-- `HIDUMP` (R193). -/
def execHidump (s : State) : Host.Outcome State Fault Refusal := wholeStep hidumpRule s

/-- `HILOAD.start` (R196). -/
def hiloadStart (s : State) : Res Unit :=
  .ok () { ({ s with ct := emptyTable }.setTableValid false).setTreeValid false with pst := .first, pidx := 0, pbuf := [] }

/-- `PIDX × 10 + d`, where it is at most 127 (R197). -/
def nextIndex (i : Symbol) (d : Nat) : Option Symbol :=
  if h : i.val * 10 + d < 128 then some ⟨i.val * 10 + d, h⟩ else none

/-- `HILOAD.byte(c)` (R197): one transition of the parser, a row at a time in the table's order. -/
def hiloadByte (c : Byte) (s : State) : Res Unit :=
  match s.pst with
  | .first => if isLF c then .ok () { s with pst := .sol } else .ok () s
  | .sol =>
    if isLF c then .ok () s
    else if isDigit c then
      match nextIndex 0 (digitVal c) with
      | some i => .ok () { s with pidx := i, pst := .idx }
      | none => .raised .hiFormat (c.zeroExtend 32) s
    else .raised .hiFormat (c.zeroExtend 32) s
  | .idx =>
    if isDigit c then
      match nextIndex s.pidx (digitVal c) with
      | some i => .ok () { s with pidx := i }
      | none => .raised .hiFormat (c.zeroExtend 32) s
    else if isWS c then .ok () { s with pbuf := [], pst := .sep }
    else if isLF c then .ok () { s.setCode s.pidx [] with pst := .sol }
    else .raised .hiFormat (c.zeroExtend 32) s
  | .sep =>
    if isWS c then .ok () s
    else if isBit c then .ok () { s with pbuf := [bitOfChar c], pst := .code }
    else if isLF c then .ok () { s.setCode s.pidx [] with pst := .sol }
    else .raised .invalidCodeChar (lineInfo s.pidx c) s
  | .code =>
    if isBit c then
      if s.pbuf.length = Config.codeMax then .raised .codeTooLong (lineInfo s.pidx 0#8) s
      else .ok () { s with pbuf := s.pbuf ++ [bitOfChar c] }
    else if isLF c then .ok () { s.setCode s.pidx s.pbuf with pst := .sol }
    else .raised .invalidCodeChar (lineInfo s.pidx c) s

/-- `HILOAD.end` (R198). -/
def hiloadEnd (s : State) : Res Unit :=
  match s.pst with
  | .first => .ok () (s.setTableValid true)
  | .sol => .ok () (s.setTableValid true)
  | .idx => .ok () ((s.setCode s.pidx []).setTableValid true)
  | .sep => .ok () ((s.setCode s.pidx []).setTableValid true)
  | .code => .ok () ((s.setCode s.pidx s.pbuf).setTableValid true)

/-- `HILOAD` (R196 to R198). -/
def execHiload (s : State) : Host.Outcome State Fault Refusal := streamStep hiloadStart hiloadByte hiloadEnd s

end Sys2Proof.Machine
end

