-- ==== Sys2Proof/Machine/BitStream.lean ====
section
/-! DEFINITION. The bit writer and reader and the `.hc` format (spec/46_bitstream.md). -/

namespace Sys2Proof.Machine

/-- `b` with bit `7 - count` set (R221). -/
def setBitFromTop (b : Byte) (count : Fin 8) : Byte := b ||| (0x80#8 >>> count.val)

/-- `putByte(b)` (R221). -/
def putByte (b : Byte) (s : State) : Res Unit :=
  if s.outBytes = BitVec.allOnes 64 then .raised .countOvf 0#32 s
  else .ok () { s.emit [b] with outBytes := s.outBytes + 1#64 }

/-- `ACC <- 0 ; WCNT <- 0` (R221, R222, R242). -/
def State.clearWriter (s : State) : State := { s with acc := 0#8, wcnt := 0 }

/-- `writeBit(bit)` (R221). -/
def writeBit (bit : Bool) (s : State) : Res Unit :=
  let acc' := if bit then setBitFromTop s.acc s.wcnt else s.acc
  if s.wcnt = 7 then (putByte acc' { s with acc := acc' }).andThen fun _ t => .ok () t.clearWriter
  else .ok () { s with acc := acc', wcnt := s.wcnt + 1 }

/-- `flush()` (R222). -/
def flush (s : State) : Res Unit :=
  if 0 < s.wcnt.val then (putByte s.acc s).andThen fun _ t => .ok () t.clearWriter
  else .ok () s

/-- `readBit() -> bit` (R224). It may be called only when the reader is not exhausted (R225); in the engine the byte step
has always filled `RBYTE`, so the pull from the input never happens (R224). -/
def readBit (s : State) : Res Bool :=
  if s.rcnt = 0 then
    match s.inq with
    | .byte b :: _ => .ok (b.getLsbD 7) { s.popIn with rbyte := b, rcnt := 7 }
    | _ => .stuck .readerExhausted
  else .ok (s.rbyte.getLsbD (s.rcnt.val - 1)) { s with rcnt := ⟨s.rcnt.val - 1, by omega⟩ }

/-- A byte whose bit `7 - i` is the `i`-th bit of the sequence, else 0 (R226). -/
def packByte (x : List Bool) : Byte := BitVec.ofNat 8 (((x ++ List.replicate (8 - x.length) false).map Bool.toNat).foldl (fun v b => 2 * v + b) 0)

/-- `pack` on at most `fuel` bytes (R226). -/
def packFuel : Nat → List Bool → List Byte
  | 0, _ => []
  | fuel + 1, x => if x.isEmpty then [] else packByte (x.take 8) :: packFuel fuel (x.drop 8)

/-- `pack(x)` (R226): `ceil(n / 8)` bytes, most significant bit first, zero padding, no trailer. -/
def pack (x : List Bool) : List Byte := packFuel x.length x

/-- The eight bits of a byte, bit 7 first (R224). -/
def bitsOfByte (b : Byte) : List Bool := [7, 6, 5, 4, 3, 2, 1, 0].map b.getLsbD

/-- `unpack(y)` (R226). -/
def unpack (y : List Byte) : List Bool := y.flatMap bitsOfByte

end Sys2Proof.Machine
end

