-- ==== Sys2Proof/Machine/Compress.lean ====
section
/-! DEFINITION. The compressor (spec/47_compress.md): `COMPRESS`. Its two ratios are the host's, HostSide.lean. -/

namespace Sys2Proof.Machine

/-- `COMPRESS.start` (R242): the tree is tested before the table. -/
def compressStart (s : State) : Res Unit :=
  if s.treeValid = false then .raised .missingTree 0#32 s
  else if s.tableValid = false then .raised .missingTable 0#32 s
  else .ok () { s.clearWriter with inBytes := 0#64, outBytes := 0#64 }.clearWarning

/-- `COMPRESS.byte(b)` (R242, R243, R244). -/
def compressByte (b : Byte) (s : State) : Res Unit :=
  if s.inBytes = BitVec.allOnes 64 then .raised .countOvf 0#32 s
  else
    let t := { s with inBytes := s.inBytes + 1#64 }
    match symbolOf b with
    | none => .ok () t.noteNonAscii
    | some c => forEach writeBit (t.codeAt c) t

/-- `COMPRESS.end` (R242). -/
def compressEnd (s : State) : Res Unit := flush s

/-- `COMPRESS` (R242). -/
def execCompress (s : State) : Host.Outcome State Fault Refusal := streamStep compressStart compressByte compressEnd s

end Sys2Proof.Machine
end

