-- ==== Sys2Proof/Machine/Decompress.lean ====
section
/-! DEFINITION. The decompressor (spec/48_decompress.md): `DECOMPRESS`. -/

namespace Sys2Proof.Machine

/-- `bitstep(bit)` (R261): move, then test for a leaf. -/
def bitstep (bit : Bool) (s : State) : Res Unit :=
  (readNode s.cur s).andThen fun nd t =>
    match nd.child bit with
    | none => .raised .badPath (t.cur.zeroExtend 32) t
    | some n =>
      (readNode n { t with cur := n }).andThen fun nd' u =>
        if nd'.isLeaf then .ok () { u.emit [nd'.sym] with cur := u.root } else .ok () u

/-- `DECOMPRESS.start` (R262). -/
def decompressStart (s : State) : Res Unit :=
  if s.treeValid = false then .raised .missingTree 0#32 s
  else .ok () { s with rbyte := 0#8, rcnt := 0, cur := s.root }

/-- `bit <- readBit() ; bitstep(bit)` (R262). -/
def decodeBit (s : State) : Res Unit := (readBit s).andThen fun bit t => bitstep bit t

/-- `DECOMPRESS.byte(b)` (R262): all eight bits of every byte. -/
def decompressByte (b : Byte) (s : State) : Res Unit := repeatTimes decodeBit 8 { s with rbyte := b, rcnt := 8 }

/-- `DECOMPRESS.end` (R262): nothing; an unfinished walk is dropped. -/
def decompressEnd (s : State) : Res Unit := .ok () s

/-- `DECOMPRESS` (R262). -/
def execDecompress (s : State) : Host.Outcome State Fault Refusal :=
  streamStep decompressStart decompressByte decompressEnd s

end Sys2Proof.Machine
end

