-- ==== Sys2Proof/Machine/Frequency.lean ====
section
/-! DEFINITION. The frequency analyzer (spec/40_frequency.md): `FCLR`, `ANALYZE`. -/

namespace Sys2Proof.Machine

/-- `FCLR` (R131). -/
def execFclr (s : State) : Host.Outcome State Fault Refusal :=
  wholeStep (fun t => .ok () { t with freq := zeroFreq }) s

/-- `ANALYZE.start` (R132). -/
def analyzeStart (s : State) : Res Unit := .ok () { s with freq := zeroFreq }.clearWarning

/-- `ANALYZE.byte(b)` (R132). -/
def analyzeByte (b : Byte) (s : State) : Res Unit :=
  match symbolOf b with
  | some c =>
    if s.freqAt c = BitVec.allOnes 32 then .raised .freqOvf (b.zeroExtend 32) s
    else .ok () (s.setFreq c (s.freqAt c + 1#32))
  | none =>
    if s.nonascii = BitVec.allOnes 64 then .raised .countOvf 0#32 s
    else .ok () s.noteNonAscii

/-- `ANALYZE.end` (R132): nothing. -/
def analyzeEnd (s : State) : Res Unit := .ok () s

/-- `ANALYZE` (R132). -/
def execAnalyze (s : State) : Host.Outcome State Fault Refusal := streamStep analyzeStart analyzeByte analyzeEnd s

end Sys2Proof.Machine
end

