-- ==== Sys2Proof/Machine/Reconstruct.lean ====
section
/-! DEFINITION. The tree reconstructor (spec/45_reconstruct.md): `RECON`. -/

namespace Sys2Proof.Machine

/-- A node with no symbol and no child, frequency 0 (R211). -/
def freshNode : Node := ⟨Config.sent, none, none, 0#39⟩

/-- One bit of the walk (R211): to the child, made first where it is absent. -/
def growStep (cur : NodeIdx) (bit : Bool) (s : State) : Res NodeIdx :=
  (readNode cur s).andThen fun nd t =>
    match nd.child bit with
    | some n => .ok n t
    | none => (alloc freshNode t).andThen fun n u => .ok n (u.setNode cur (nd.setChild bit n))

/-- The walk of one code from `cur` (R211). -/
def growPath : Code → NodeIdx → State → Res NodeIdx
  | [], cur, s => .ok cur s
  | bit :: rest, cur, s => (growStep cur bit s).andThen fun n t => growPath rest n t

/-- One iteration of `RECON` (R211): the path of `CT[c]` and its symbol at the end; an empty code does nothing. -/
def growSymbol (r : NodeIdx) (c : Symbol) (s : State) : Res Unit :=
  if (s.codeAt c).isEmpty then .ok () s
  else
    (growPath (s.codeAt c) r s).andThen fun cur t =>
    (readNode cur t).andThen fun nd u =>
    .ok () (u.setNode cur { nd with sym := symByte c })

/-- The rule of `RECON` (R211). -/
def reconRule (s : State) : Res Unit :=
  if s.tableValid = false then .raised .missingTable 0#32 s
  else
    (alloc freshNode { s.setTreeValid false with arena := [], heap := [] }).andThen fun r t =>
    (forEach (growSymbol r) symbols t).andThen fun _ u =>
    .ok () ({ u with root := r }.setTreeValid true)

/-- `RECON` (R211). -/
def execRecon (s : State) : Host.Outcome State Fault Refusal := wholeStep reconRule s

end Sys2Proof.Machine
end

