-- ==== Sys2Proof/Machine/System.lean ====
section
/-! DEFINITION. The system commands `NOP`, `CLRERR`, `SRST` (spec/49_system.md R280, R281, R282). -/

namespace Sys2Proof.Machine

/-- `NOP` (R280): nothing. -/
def execNop (s : State) : Host.Outcome State Fault Refusal := wholeStep (fun t => .ok () t) s

/-- `CLRERR` (R281). -/
def execClrerr (s : State) : Host.Outcome State Fault Refusal := wholeStep (fun t => .ok () (acknowledgeFault t)) s

/-- `SRST` (R282): every element at its reset value. It acts in the write to `CMD` (R103; `writeCmd` in Port.lean), which
never leaves its word in `CMDR`; as an engine step it has the same effect (log entry 5). -/
def execSrst (s : State) : Host.Outcome State Fault Refusal := wholeStep (fun t => .ok () (resetEngine t)) s

end Sys2Proof.Machine
end

