-- ==== Sys2Proof/Machine/Scheduler.lean ====
section
/-! DEFINITION. The priority scheduler (spec/41_scheduler.md): a binary min-heap in the array `H`, ordered by
(priority, sequence number). The array and the sifts are kept as the rules write them (log entry 14). -/

namespace Sys2Proof.Machine

/-- `key(e)` (R141): a number of 47 bits. -/
def Entry.key (e : Entry) : Nat := e.prio.toNat * 2 ^ 8 + e.seq.toNat

/-- Sift up from position `i` (R142, R143): at most `fuel` swaps; the position halves at each, so its own value is
enough. -/
def siftUp : Nat → Nat → List Entry → List Entry
  | 0, _, h => h
  | fuel + 1, i, h =>
    if i = 0 then h
    else
      match h[i]?, h[(i - 1) / 2]? with
      | some e, some p =>
        if e.key < p.key then siftUp fuel ((i - 1) / 2) ((h.set i p).set ((i - 1) / 2) e) else h
      | _, _ => h

/-- The smaller, by key, of the entries at `m` and at `c`, where `c` is below `HN` (R145). -/
def smallerAt (h : List Entry) (m c : Nat) : Nat :=
  match h[m]?, h[c]? with
  | some em, some ec => if ec.key < em.key then c else m
  | _, _ => m

/-- Sift down from position `i` (R143, R145): at most `fuel` swaps. -/
def siftDown : Nat → Nat → List Entry → List Entry
  | 0, _, h => h
  | fuel + 1, i, h =>
    let m := smallerAt h (smallerAt h i (2 * i + 1)) (2 * i + 2)
    if m = i then h
    else
      match h[i]?, h[m]? with
      | some e, some em => siftDown fuel m ((h.set i em).set m e)
      | _, _ => h

/-- The array after an insert of `e` (R142). -/
def heapInsert (e : Entry) (h : List Entry) : List Entry := siftUp h.length h.length (h ++ [e])

/-- The array after the removal of `H[0]`, `rest` being `H[1..HN-1]` (R145): the last entry moves to the front. -/
def heapPop (rest : List Entry) : List Entry :=
  match rest.getLast? with
  | none => []
  | some e => siftDown rest.length 0 (e :: rest.dropLast)

/-- `insert(root, prio)` (R142). -/
def insert (root : NodeIdx) (prio : Prio) (s : State) : Res Unit :=
  if s.hn = Config.heapCap then .raised .heapFull 0#32 s
  else .ok () { s with heap := heapInsert ⟨prio, s.hseq, root⟩ s.heap, hseq := s.hseq + 1#8 }

/-- `peekMinPriority()` (R144). -/
def peekMinPriority (s : State) : Prio :=
  match s.heap with
  | [] => Config.prioEmpty
  | e :: _ => e.prio

/-- `removeMin()` (R145). -/
def removeMin (s : State) : Res Entry :=
  match s.heap with
  | [] => .raised .heapEmpty 0#32 s
  | e :: rest => .ok e { s with heap := heapPop rest }

end Sys2Proof.Machine
end

