-- ==== Sys2Proof/Machine/TreeBuilder.lean ====
section
/-! DEFINITION. The tree merge engine (spec/42_treebuilder.md): `HSEED`, `HMERGE`, `HTAKE`, `BUILD`. -/

namespace Sys2Proof.Machine

/-- One iteration of `HSEED` (R161): a leaf for symbol `c` and its entry. -/
def seedLeaf (c : Symbol) (s : State) : Res Unit :=
  (alloc ⟨symByte c, none, none, (s.freqAt c).zeroExtend 39⟩ s).andThen fun n t =>
    insert n ((t.freqAt c).zeroExtend 39) t

/-- The rule of `HSEED` (R161). -/
def hseedRule (s : State) : Res Unit :=
  forEach seedLeaf symbols { (s.setTreeValid false).setTableValid false with heap := [], hseq := 0#8, arena := [] }

/-- The rule of `HMERGE` (R162): the first removed tree is the left child, the second the right. -/
def hmergeRule (s : State) : Res Unit :=
  if s.hn < 2 then .raised .heapEmpty (BitVec.ofNat 32 s.hn) s
  else
    (removeMin s).andThen fun e1 s1 =>
    (removeMin s1).andThen fun e2 s2 =>
    (alloc ⟨Config.sent, some e1.root, some e2.root, e1.prio + e2.prio⟩ s2).andThen fun n s3 =>
    insert n (e1.prio + e2.prio) s3

/-- The rule of `HTAKE` (R163). -/
def htakeRule (s : State) : Res Unit :=
  if s.hn = 0 then .raised .heapEmpty 0#32 s
  else if 1 < s.hn then .raised .buildIncomplete (BitVec.ofNat 32 s.hn) s
  else
    (removeMin s).andThen fun e t =>
    .ok () ({ t.setTableValid false with root := e.root }.setTreeValid true)

/-- The rule of `BUILD` (R164). -/
def buildRule (s : State) : Res Unit :=
  (hseedRule s).andThen fun _ t =>
  (repeatTimes hmergeRule Config.nmerge t).andThen fun _ u =>
  htakeRule u

/-- `HSEED` (R161). -/
def execHseed (s : State) : Host.Outcome State Fault Refusal := wholeStep hseedRule s

/-- `HMERGE` (R162). -/
def execHmerge (s : State) : Host.Outcome State Fault Refusal := wholeStep hmergeRule s

/-- `HTAKE` (R163). -/
def execHtake (s : State) : Host.Outcome State Fault Refusal := wholeStep htakeRule s

/-- `BUILD` (R164). -/
def execBuild (s : State) : Host.Outcome State Fault Refusal := wholeStep buildRule s

end Sys2Proof.Machine
end

