-- ==== Sys2Proof/Machine/Dispatch.lean ====
section
/-! DEFINITION. One engine step of the command in `CMDR` (spec/20_memory.md R62), by command. -/

namespace Sys2Proof.Machine

def exec (i : Instr) (s : State) : Host.Outcome State Fault Refusal :=
  match i with
  | .nop => Sys2Proof.Machine.execNop s
  | .clrerr => Sys2Proof.Machine.execClrerr s
  | .srst => Sys2Proof.Machine.execSrst s
  | .fclr => Sys2Proof.Machine.execFclr s
  | .analyze => Sys2Proof.Machine.execAnalyze s
  | .hseed => Sys2Proof.Machine.execHseed s
  | .hmerge => Sys2Proof.Machine.execHmerge s
  | .htake => Sys2Proof.Machine.execHtake s
  | .build => Sys2Proof.Machine.execBuild s
  | .gen => Sys2Proof.Machine.execGen s
  | .recon => Sys2Proof.Machine.execRecon s
  | .hidump => Sys2Proof.Machine.execHidump s
  | .hiload => Sys2Proof.Machine.execHiload s
  | .compress => Sys2Proof.Machine.execCompress s
  | .decompress => Sys2Proof.Machine.execDecompress s

end Sys2Proof.Machine
end

