-- ==== Sys2Proof/Machine/Port.lean ====
section
/-! DEFINITION. The register port (spec/20_memory.md R64 to R68, spec/10_state.md R24 to R37) and the acceptance of a
command word (spec/30_encoding.md R103). -/

namespace Sys2Proof.Machine

/-- The registers of R66. -/
inductive Reg where
  | cmd
  | status
  | err
  | errinfo
  | warn
  | nonasciiLo
  | nonasciiHi
  | inBytesLo
  | inBytesHi
  | outBytesLo
  | outBytesHi
  | heapCount
  | heapMinLo
  | heapMinHi
  | nodeCount
  | root
  | inData
  | outData
  | freq (i : Symbol)
  | ctLen (c : Symbol)
  | ctBits (c : Symbol) (j : Fin 4)
  | ctZero (c : Symbol) (k : Fin 3)
  | node (n : NodeIdx) (m : Fin 4)
  deriving DecidableEq, Repr

/-- The column "access" of R66. -/
inductive Rights where
  | readOnly
  | writeOnly
  | readWrite
  deriving DecidableEq, Repr

/-- The rights of a register (R66). -/
def Reg.rights : Reg → Rights
  | .cmd => .writeOnly
  | .inData => .writeOnly
  | .freq _ => .readWrite
  | .status | .err | .errinfo | .warn | .nonasciiLo | .nonasciiHi | .inBytesLo | .inBytesHi | .outBytesLo | .outBytesHi
  | .heapCount | .heapMinLo | .heapMinHi | .nodeCount | .root | .outData | .ctLen _ | .ctBits _ _ | .ctZero _ _
  | .node _ _ => .readOnly

/-- The list of R68: the registers accessible while `BUSY` = 1. -/
def Reg.visibleWhileBusy : Reg → Bool
  | .cmd | .status | .err | .errinfo | .warn | .nonasciiLo | .nonasciiHi | .inBytesLo | .inBytesHi | .outBytesLo
  | .outBytesHi | .inData | .outData => true
  | .heapCount | .heapMinLo | .heapMinHi | .nodeCount | .root | .freq _ | .ctLen _ | .ctBits _ _ | .ctZero _ _
  | .node _ _ => false

/-- The rows of R66 with one address each. -/
def fixedMap : List (Nat × Reg) :=
  [(0x00000, .cmd), (0x00004, .status), (0x00008, .err), (0x0000C, .errinfo), (0x00010, .warn), (0x00014, .nonasciiLo),
   (0x00018, .nonasciiHi), (0x0001C, .inBytesLo), (0x00020, .inBytesHi), (0x00024, .outBytesLo), (0x00028, .outBytesHi),
   (0x0002C, .heapCount), (0x00030, .heapMinLo), (0x00034, .heapMinHi), (0x00038, .nodeCount), (0x0003C, .root),
   (0x00040, .inData), (0x00044, .outData)]

/-- A number below 128 as a table index. -/
def indexOf (i : Nat) : Symbol := ⟨i % 128, Nat.mod_lt i (by decide)⟩

/-- The word of a code table slot at word offset `k` of its eight (R35, R66). -/
def slotReg (c : Symbol) (k : Nat) : Reg :=
  match k with
  | 0 => .ctLen c
  | 1 => .ctBits c 0
  | 2 => .ctBits c 1
  | 3 => .ctBits c 2
  | 4 => .ctBits c 3
  | 5 => .ctZero c 0
  | 6 => .ctZero c 1
  | _ => .ctZero c 2

/-- The register at a byte address that is a multiple of 4, with `nn` nodes allocated (R64 step 2, R66). -/
def regAt (a nn : Nat) : Option Reg :=
  if a < 0x48 then fixedMap.lookup a
  else if 0x400 ≤ a ∧ a < 0x600 then some (.freq (indexOf ((a - 0x400) / 4)))
  else if 0x1000 ≤ a ∧ a < 0x2000 then some (slotReg (indexOf ((a - 0x1000) / 32)) ((a - 0x1000) % 32 / 4))
  else if 0x40000 ≤ a ∧ (a - 0x40000) / 16 < nn then
    some (.node (BitVec.ofNat 14 ((a - 0x40000) / 16)) ⟨(a - 0x40000) / 4 % 4, Nat.mod_lt _ (by decide)⟩)
  else none

/-- An access is well formed (R64, R75): 32 bits at a multiple of 4. -/
def accessWellFormed (addr : Addr) (size : Nat) : Bool := size == 4 && addr.toNat % 4 == 0

/-- Steps 1 to 4 of R64 for an access in one direction: the register it reaches, or `none` for `BUSERR`. -/
def reach (s : State) (addr : Addr) (size : Nat) (refusing : Rights) : Option Reg :=
  if accessWellFormed addr size then
    match regAt addr.toNat s.nn with
    | none => none
    | some r => if r.rights = refusing then none else if s.busy && !r.visibleWhileBusy then none else some r
  else none

/-- The value a register reads as; `OUT_DATA` is read in `popOut`, and `CMD` and `IN_DATA` refuse reads before this. -/
def readReg (s : State) : Reg → Option Word
  | .cmd => none
  | .status => some s.status
  | .err => some (s.err.zeroExtend 32)
  | .errinfo => some s.errinfo
  | .warn => some (flagBit s.warn)
  | .nonasciiLo => some (lowHalf s.nonascii)
  | .nonasciiHi => some (highHalf s.nonascii)
  | .inBytesLo => some (lowHalf s.inBytes)
  | .inBytesHi => some (highHalf s.inBytes)
  | .outBytesLo => some (lowHalf s.outBytes)
  | .outBytesHi => some (highHalf s.outBytes)
  | .heapCount => some s.heapCountWord
  | .heapMinLo => some (prioLowWord (peekMinPriority s))
  | .heapMinHi => some (prioHighWord (peekMinPriority s))
  | .nodeCount => some s.nodeCountWord
  | .root => some s.rootWord
  | .inData => none
  | .outData => some (match s.outq with | [] => 0#32 | b :: _ => 0x80000000#32 ||| b.zeroExtend 32)
  | .freq i => some (s.freqAt i)
  | .ctLen c => some (codeLenWord (s.codeAt c))
  | .ctBits c j => some (codeBitsWord (s.codeAt c) j)
  | .ctZero _ _ => some 0#32
  | .node n m => (nodeAt s.arena n).map fun nd => nodeWord nd m

/-- The side effect of a read (R37, R76): only `OUT_DATA` has one, a read pops `OUTQ`. -/
def readEffect (s : State) : Reg → State
  | .outData => { s with outq := s.outq.tail }
  | .cmd | .status | .err | .errinfo | .warn | .nonasciiLo | .nonasciiHi | .inBytesLo | .inBytesHi | .outBytesLo
  | .outBytesHi | .heapCount | .heapMinLo | .heapMinHi | .nodeCount | .root | .inData | .freq _ | .ctLen _ | .ctBits _ _
  | .ctZero _ _ | .node _ _ => s

/-- `MemRead(addr, size)` (R64). -/
def memRead (addr : Addr) (size : Nat) (s : State) : Response × State :=
  match reach s addr size .writeOnly with
  | none => (.busErr, s)
  | some r =>
    match readReg s r with
    | some w => (.data w, readEffect s r)
    | none => (.busErr, s)

/-- What acceptance leaves (R103): `CMDR <- w ; PHASE <- START ; BUSY <- 1`. -/
def loadCommand (w : Word) (s : State) : State := { s with cmdr := w, phase := .start, busy := true }

/-- A write to `CMD` (R103). -/
def writeCmd (w : Word) (s : State) : Response × State :=
  if w = 0x00000002#32 then (.ok, resetEngine s)
  else if s.busy then (.busErr, s)
  else if s.faulted && w != 0x00000001#32 then (.busErr, s)
  else (.ok, loadCommand w s)

/-- The item a word written to `IN_DATA` appends (R37): bits 7:0 `BYTE`, bit 8 `EOS`, the rest ignored. -/
def itemOf (w : Word) : Item := if w.getLsbD 8 then .eos else .byte (w.extractLsb' 0 8)

/-- A write to a register that accepts writes (R22, R37, R103). -/
def writeReg (r : Reg) (v : Word) (s : State) : Response × State :=
  match r with
  | .cmd => writeCmd v s
  | .inData => (.ok, { s with inq := s.inq ++ [itemOf v] })
  | .freq i => (.ok, s.setFreq i v)
  | .status | .err | .errinfo | .warn | .nonasciiLo | .nonasciiHi | .inBytesLo | .inBytesHi | .outBytesLo | .outBytesHi
  | .heapCount | .heapMinLo | .heapMinHi | .nodeCount | .root | .outData | .ctLen _ | .ctBits _ _ | .ctZero _ _
  | .node _ _ => (.busErr, s)

/-- `MemWrite(addr, size, v)` (R64). -/
def memWrite (addr : Addr) (size : Nat) (v : Word) (s : State) : Response × State :=
  match reach s addr size .readOnly with
  | none => (.busErr, s)
  | some r => writeReg r v s

end Sys2Proof.Machine
end

