-- ==== Sys2Proof/Machine/Engine.lean ====
section
/-! DEFINITION. The two agents' steps (spec/20_memory.md R60 to R63): the engine step and the host's next access. -/

namespace Sys2Proof.Machine

/-- The engine step is enabled (R62). -/
def State.engineEnabled (s : State) : Bool := s.busy && (s.phase == .start || !s.inq.isEmpty)

/-- The engine step (R62): nothing when it is not enabled; an illegal word faults; else the command's step (log entries 7 and 15). -/
def engineStep (s : State) : Host.Outcome State Fault Refusal :=
  if s.engineEnabled then
    match decode s.cmdr with
    | .ok i => exec i s
    | .error _ => .next (takeFault .illegalCmd s.cmdr s)
  else .next s

/-- An access's response reaches the host. -/
def deliver (r : Response × State) : State := { r.2 with resps := r.2.resps ++ [r.1] }

/-- The repeating lines of R106: the line is done unless bit `k` of the word read says to go on. -/
def repeatsOn (k : Nat) (r : Response) : Bool :=
  match r with
  | .data w => w.getLsbD k
  | .ok => false
  | .busErr => false

/-- The host's next access (R60, R106): `wait` and `drain` stay the next line while they repeat; nothing when the host has
no line left (log entry 12). -/
def hostStep (s : State) : State :=
  match s.host with
  | [] => s
  | .read addr size :: rest => deliver (memRead addr size { s with host := rest })
  | .write addr size v :: rest => deliver (memWrite addr size v { s with host := rest })
  | .wait :: rest =>
    let r := memRead 0x00004#20 4 s
    deliver (if repeatsOn 0 r.1 then r else (r.1, { r.2 with host := rest }))
  | .drain :: rest =>
    let r := memRead 0x00044#20 4 s
    deliver (if repeatsOn 31 r.1 then r else (r.1, { r.2 with host := rest }))

end Sys2Proof.Machine
end

