-- ==== Sys2Proof/Machine/Step.lean ====
section
/-! DEFINITION. One event (spec/20_memory.md R60, R78): a host access, an engine step, or the reset input
(spec/70_reset_and_hazards.md R340), in the order `sched` gives. -/

namespace Sys2Proof.Machine

/-- One event. When `sched` has run out the engine steps whenever it is enabled, and the host otherwise (R352: an enabled
engine step is eventually taken; log entries 1 and 9). The reset input is one event (log entry 11). -/
def step (s : State) : Host.Outcome State Fault Refusal :=
  match s.sched with
  | [] => if s.engineEnabled then engineStep s else .next (hostStep s)
  | .host :: rest => .next (hostStep { s with sched := rest })
  | .engine :: rest => engineStep { s with sched := rest }
  | .reset :: rest => .next (resetEngine { s with sched := rest })

/-- The engine has no program counter and no fetch (R21, R81): a command runs from `CMDR` once accepted. So this is the
state an acceptance of the word leaves (R103), with the engine's turn next (log entry 5). -/
def State.withFetchWord (s : State) (nbits w : Nat) : State :=
  { loadCommand (BitVec.ofNat 32 (w % 2 ^ nbits)) s with sched := .engine :: s.sched }

end Sys2Proof.Machine
end

