-- ==== Sys2Proof/Machine/HostSide.lean ====
section
/-! DEFINITION. What the spec says on the host's side of the port: the notation and the pseudo-instructions of host
programs (spec/30_encoding.md R106 to R110), the file names (R112) and the statistics (spec/47_compress.md R246, R247).
No step of the engine uses this file. -/

namespace Sys2Proof.Machine

/-- `cmd M` (R106). -/
def cmdLine (i : Instr) : List HostOp := [.write 0x00000#20 4 (encode i)]

/-- `push b0 b1 ... bk` (R106). -/
def pushLine (bs : List Byte) : List HostOp := bs.map fun b => .write 0x00040#20 4 (b.zeroExtend 32)

/-- `eos` (R106). -/
def eosLine : List HostOp := [.write 0x00040#20 4 0x00000100#32]

/-- `wait` (R106). -/
def waitLine : List HostOp := [.wait]

/-- `pop` (R106). -/
def popLine : List HostOp := [.read 0x00044#20 4]

/-- `drain` (R106). -/
def drainLine : List HostOp := [.drain]

/-- `rd NAME` (R106), by address. -/
def rdLine (addr : Addr) : List HostOp := [.read addr 4]

/-- `wr NAME, v` (R106), by address. -/
def wrLine (addr : Addr) (v : Word) : List HostOp := [.write addr 4 v]

/-- `BuildCodeTable(S)` (R107). -/
def buildCodeTable (bs : List Byte) : List HostOp :=
  cmdLine .analyze ++ pushLine bs ++ eosLine ++ waitLine ++ cmdLine .build ++ waitLine ++ cmdLine .gen ++ waitLine
    ++ cmdLine .hidump ++ waitLine ++ drainLine

/-- `LoadCodeTable(I)` (R108). -/
def loadCodeTable (image : List Byte) : List HostOp :=
  cmdLine .hiload ++ pushLine image ++ eosLine ++ waitLine ++ cmdLine .recon ++ waitLine

/-- `Compress(S)` (R109). -/
def compressProgram (bs : List Byte) : List HostOp :=
  cmdLine .compress ++ pushLine bs ++ eosLine ++ waitLine ++ drainLine ++ rdLine 0x0001C#20 ++ rdLine 0x00020#20
    ++ rdLine 0x00024#20 ++ rdLine 0x00028#20

/-- `Decompress(C)` (R110). -/
def decompressProgram (bs : List Byte) : List HostOp :=
  cmdLine .decompress ++ pushLine bs ++ eosLine ++ waitLine ++ drainLine

/-- The name of a source file's table image (R112). -/
def tableFileName (p : String) : String := p ++ ".hi"

/-- The name of a source file's compressed stream (R112). -/
def compressedFileName (p : String) : String := p ++ ".hc"

/-- The name of a compressed file's recovered file (R112): without its last three characters, whatever they are.
DESIGN CHOICE: a name of fewer than three characters, of which the rule says nothing, gives the empty name (log entry 16). -/
def recoveredFileName (q : String) : String := String.ofList (q.toList.take (q.toList.length - 3))

/-- `round5` (R247): a multiple of 10^-5 less than 10^-5 away, the number itself where it is such a multiple. Which
neighbour is taken otherwise is OPEN: the free value `Config.roundUp`. -/
def round5 (q : Rat) : Rat :=
  if ((q * 100000).floor : Rat) = q * 100000 then q
  else if Config.roundUp q then (((q * 100000).floor + 1 : Int) : Rat) / 100000
  else ((q * 100000).floor : Rat) / 100000

/-- `compressionRatio(I, O)` (R246); `none` is `UNDEF` (log entry 13). -/
def compressionRatio (input output : Count) : Option Rat :=
  if output = 0#64 then none else some (round5 ((input.toNat : Rat) / (output.toNat : Rat)))

/-- `spaceSavingPercent(I, O)` (R246); `none` is `UNDEF`. -/
def spaceSavingPercent (input output : Count) : Option Rat :=
  if input = 0#64 then none else some (round5 ((1 - (output.toNat : Rat) / (input.toNat : Rat)) * 100))

end Sys2Proof.Machine
end

