-- ==== Sys2Proof/Safety.lean ====
section
/-! DEFINITION. What claims about the engine are stated in: the scheduler's order (spec/10_state.md R31), the tree in the
arena (R34), the invariants the spec states in prose, and a safe run. -/

namespace Sys2Proof.Machine

/-- The key of the entry at a position, 0 above `HN`. -/
def keyAt (h : List Entry) (i : Nat) : Nat := (h[i]?.map Entry.key).getD 0

/-- The heap invariant of R31: every entry's parent has a smaller key. -/
abbrev HeapOrdered (h : List Entry) : Prop := ∀ i, i < h.length → 0 < i → keyAt h ((i - 1) / 2) < keyAt h i

/-- The sum of the priorities held (R166), exact. -/
def prioSum (h : List Entry) : Nat := (h.map fun e => e.prio.toNat).sum

/-- The sum of the 128 counters, exact. -/
def freqSum (f : Vector Freq 128) : Nat := (symbols.map fun c => f[c.val].toNat).sum

/-- The present children of a node, left first. -/
def Node.children (n : Node) : List NodeIdx := n.left.toList ++ n.right.toList

/-- Every child link of the arena, in node order. -/
def childList (arena : List Node) : List NodeIdx := arena.flatMap Node.children

/-- The node a path leads to from `n` (R9: 0 left, 1 right), where every branch is there. -/
def follow (arena : List Node) : NodeIdx → Code → Option NodeIdx
  | n, [] => some n
  | n, bit :: rest =>
    match nodeAt arena n with
    | some nd => (nd.child bit).bind fun c => follow arena c rest
    | none => none

/-- A path from `n` ends at a leaf whose `sym` field is `b`. -/
def LeafAt (arena : List Node) (n : NodeIdx) (path : Code) (b : Byte) : Prop :=
  ∃ m nd, follow arena n path = some m ∧ nodeAt arena m = some nd ∧ nd.isLeaf = true ∧ nd.sym = b

/-- No non-empty code is a prefix of another symbol's code (R168, R212 (f)). -/
def PrefixFree (table : Vector Code 128) : Prop :=
  ∀ a b : Symbol, a ≠ b → table[a.val] ≠ [] → ¬ table[a.val] <+: table[b.val]

/-- A matched pair (R264). -/
def Matched (s : State) : Prop :=
  s.treeValid = true ∧ s.tableValid = true ∧
    ∀ c : Symbol, s.codeAt c ≠ [] → LeafAt s.arena s.root (s.codeAt c) (symByte c)

/-- What the scheduler holds in every state a run reaches (R31, R142, R166). -/
structure SchedInv (s : State) : Prop where
  /-- R31. -/
  ordered : HeapOrdered s.heap
  /-- While entries are held, `HN` + `NN` = 256 and `HSEQ` = `NN` (R142, R161, R162). -/
  counts : s.heap = [] ∨ (128 ≤ s.nn ∧ s.hn + s.nn = 256 ∧ s.hseq.toNat = s.nn)
  /-- An entry's tree was allocated when the entry was inserted: same number (R161, R162). -/
  entries : ∀ e ∈ s.heap, e.root.toNat = e.seq.toNat ∧ e.seq.toNat < s.nn
  /-- Sequence numbers are all different (R141, R142). -/
  seqs : (s.heap.map Entry.seq).Nodup
  /-- R166: the priorities held sum to at most 128 × (2^32 − 1). -/
  sum : prioSum s.heap ≤ 2 ^ 39 - 128

/-- What the arena holds in every state a run reaches (R32, R33, R34). -/
structure ArenaInv (s : State) : Prop where
  /-- R33. -/
  cap : s.nn ≤ Config.nodeCap
  /-- R34: every child index is below `NN`. -/
  inRange : ∀ c ∈ childList s.arena, c.toNat < s.nn
  /-- R34: no node is the child of two. -/
  oneParent : (childList s.arena).Nodup
  /-- R181 (d): no symbol sits on two nodes. -/
  symbolsOnce : (s.arena.filterMap fun nd => symbolOf nd.sym).Nodup
  /-- While a build is under way: the seeded nodes are leaves, a node's children are older, and an entry's tree is no
  part of another (R161, R162, R166). -/
  forest : s.heap ≠ [] →
    (∀ e ∈ s.heap, e.root ∉ childList s.arena) ∧
      ∀ n nd, s.arena[n]? = some nd → (n < 128 → nd.isLeaf = true) ∧ ∀ c ∈ nd.children, c.toNat < n
  /-- R34, R167, R212: with a valid tree no build is under way, `ROOT` is a node and no node's child, and the nodes can be
  ranked so that a child ranks below its parent and `ROOT` at most 127: no cycle, and no path longer than 127. -/
  tree : s.treeValid = true →
    s.heap = [] ∧ s.root.toNat < s.nn ∧ s.root ∉ childList s.arena ∧
      ∃ rank : Nat → Nat, rank s.root.toNat ≤ 127 ∧
        ∀ n nd, s.arena[n]? = some nd → ∀ c ∈ nd.children, rank c.toNat < rank n

/-- Every code fits its entry, and the parser's buffer does (R35, R42). -/
structure TableInv (s : State) : Prop where
  codes : ∀ c : Symbol, (s.codeAt c).length ≤ Config.codeMax
  buffer : s.pbuf.length ≤ Config.codeMax

/-- The command `i` is between its steps: accepted, its start rule done, consuming items (R39, R62). -/
def Consuming (i : Instr) (s : State) : Prop := s.busy = true ∧ s.phase = .run ∧ decode s.cmdr = .ok i

/-- How the control registers go together in every state a run reaches (R26, R39, R40, R103). -/
structure ControlInv (s : State) : Prop where
  /-- R39: only a stream command is ever in `RUN`. -/
  running : s.busy = true → s.phase = .run → ∃ i : Instr, decode s.cmdr = .ok i ∧ i.isStream = true
  /-- R103, R310: with a fault recorded only `CLRERR` is ever accepted. -/
  faulted : s.busy = true → s.err ≠ 0#8 → s.cmdr = 0x00000001#32 ∧ s.phase = .start
  /-- R301: codes 14 to 255 are never produced. -/
  code : s.err.toNat ≤ 13
  /-- R262: the walk stands on a node of a valid tree. -/
  walk : Consuming .decompress s → s.treeValid = true ∧ s.cur.toNat < s.nn
  /-- R40, R242: the bits of `ACC` not yet written are 0, and `NONASCII` is at most `IN_BYTES`. -/
  writer : Consuming .compress s → s.acc.toNat % 2 ^ (8 - s.wcnt.val) = 0 ∧ s.nonascii.toNat ≤ s.inBytes.toNat

/-- The invariant of the whole engine. -/
structure EngineInv (s : State) : Prop where
  sched : SchedInv s
  arena : ArenaInv s
  table : TableInv s
  control : ControlInv s

/-- The elements of R20 alone: the model's own three fields set aside. -/
def engineOnly (s : State) : State := { s with host := [], sched := [], resps := [] }

/-- The row by row values of R44, with the reading of `STATUS` that R25 gives for it. -/
structure AtReset (s : State) : Prop where
  freq : ∀ c, s.freqAt c = 0#32
  scheduler : s.hn = 0 ∧ s.hseq = 0#8
  arena : s.nn = 0 ∧ s.root = 0#14
  table : ∀ c, s.codeAt c = []
  flags : s.treeValid = false ∧ s.tableValid = false ∧ s.busy = false
  command : s.cmdr = 0#32 ∧ s.phase = .start
  fault : s.err = 0#8 ∧ s.errinfo = 0#32 ∧ s.warn = false
  counters : s.nonascii = 0#64 ∧ s.inBytes = 0#64 ∧ s.outBytes = 0#64
  queues : s.inq = [] ∧ s.outq = []
  writer : s.acc = 0#8 ∧ s.wcnt = 0
  reader : s.rbyte = 0#8 ∧ s.rcnt = 0 ∧ s.cur = 0#14
  parser : s.pst = .first ∧ s.pidx = 0 ∧ s.pbuf = []
  statusWord : s.status = 0x00000010#32

/-- Commands executed one after another, each to its end (R164 speaks of such a sequence). -/
def execAll : List Instr → State → Host.Outcome State Fault Refusal
  | [], s => .next s
  | i :: is, s =>
    match exec i s with
    | .next t => execAll is t
    | .fault f => .fault f
    | .refused r => .refused r

/-- The code of a byte of the input of `COMPRESS`: none for a byte of 128 or more (R243). -/
def codeOfByte (table : Vector Code 128) (b : Byte) : Code :=
  match symbolOf b with
  | some c => table[c.val]
  | none => []

/-- The decoder's walk over bits as a function of the tree alone (R261): the bytes emitted and the node it ends at, where
every step finds its child. -/
def decodeBits (arena : List Node) (root : NodeIdx) : NodeIdx → List Bool → Option (List Byte × NodeIdx)
  | cur, [] => some ([], cur)
  | cur, bit :: rest =>
    match (nodeAt arena cur).bind fun nd => nd.child bit with
    | none => none
    | some n =>
      match nodeAt arena n with
      | none => none
      | some nd =>
        if nd.isLeaf then (decodeBits arena root root rest).map fun r => (nd.sym :: r.1, r.2)
        else decodeBits arena root n rest

/-- Zero bits that fill the last byte of a stream of `n` bits (R227 (c), R263). -/
def paddingBits (n : Nat) : Nat := (8 - n % 8) % 8

/-- A run from `s` never stops: every number of events leads to a next state. -/
def SafeRun (s : State) : Prop := ∀ n, ∃ t, Sys2Proof.core.run n s = .next t

/-- The engine has accepted `i`, is about to take its first step, and no event is scheduled before the engine's own. -/
def Starting (i : Instr) (s : State) : Prop :=
  s.busy = true ∧ s.phase = .start ∧ s.cmdr = encode i ∧ s.sched = []

end Sys2Proof.Machine
end

