-- ==== Sys2Proof/Certificates/Slice0/Obligations.lean ====
section
/-! DEFINITION. The statements about the engine, each from the rules of spec/ its docstring names. A statement that speaks
of `step`, of a run, of `sched`, `host` or `resps` rests, for that clause, on the model's own way to hold the order of
events as data (log entries 1, 2, 9, 12); the rules it names give the effect of each event. -/

open Sys2Proof Sys2Proof.Machine

/-! ### System commands and reset -/

/-- R280: `NOP` takes its one engine step and changes no other state. -/
def Obligations.NopOnlyEndsItself : Prop :=
  ∀ s, exec .nop s = .next { s with busy := false }

/-- R281, the command's effect: a fault is acknowledged, the warning cleared, `INQ` emptied; nothing else changes. -/
def Obligations.ClrerrAcknowledgesTheFault : Prop :=
  ∀ s, exec .clrerr s = .next { s with err := 0#8, errinfo := 0#32, warn := false, inq := [], busy := false }

/-- R44: `State.reset` and the state after `SRST` have every element of the engine at its reset value; `STATUS` reads
0x00000010 then (R25, R340). -/
def Obligations.ResetHoldsTheListedValues : Prop :=
  AtReset State.reset ∧ ∀ s, AtReset (memWrite 0x00000#20 4 0x00000002#32 s).2

/-- R282, R341: the write of `SRST`'s word at any time leaves the engine in the reset state. Two clauses are the model's
own: the engine step of `SRST`, which R282 never takes (it acts in the write), has the same effect (log entry 5), and the
reset input of R340 is one event of `sched` (log entries 1 and 11). -/
def Obligations.EveryResetLeavesTheResetState : Prop :=
  ∀ s, (∃ t, exec .srst s = .next t ∧ engineOnly t = State.reset) ∧
    (∃ t, memWrite 0x00000#20 4 0x00000002#32 s = (.ok, t) ∧ engineOnly t = State.reset) ∧
    ∀ rest, s.sched = .reset :: rest → ∃ t, step s = .next t ∧ engineOnly t = State.reset

/-! ### Frequency analyzer -/

/-- R131: `FCLR` clears the 128 counters and touches nothing else. -/
def Obligations.FclrClearsTheCounters : Prop :=
  ∀ s, ∃ t, exec .fclr s = .next t ∧ (∀ c, t.freqAt c = 0#32) ∧ t = { s with freq := t.freq, busy := false }

/-- R132, the start rule: the counters, `NONASCII` and the warning are cleared and the command goes on to its items. -/
def Obligations.AnalyzeStartsFromZero : Prop :=
  ∀ s, s.phase = .start →
    ∃ t, exec .analyze s = .next t ∧ (∀ c, t.freqAt c = 0#32) ∧
      t = { s with freq := t.freq, nonascii := 0#64, warn := false, phase := .run }

/-- R132, the byte and end rules: a symbol is counted, a byte of 128 or more is reported, a full counter faults and keeps
its value, `eos` ends the command. -/
def Obligations.AnalyzeTakesOneItem : Prop :=
  ∀ s q, s.phase = .run →
    (∀ c : Symbol, s.inq = .byte (BitVec.ofNat 8 c.val) :: q → s.freqAt c ≠ BitVec.allOnes 32 →
      ∃ t, exec .analyze s = .next t ∧ t.freqAt c = s.freqAt c + 1#32 ∧ (∀ d, d ≠ c → t.freqAt d = s.freqAt d) ∧
        t = { s with freq := t.freq, inq := q }) ∧
    (∀ c : Symbol, s.inq = .byte (BitVec.ofNat 8 c.val) :: q → s.freqAt c = BitVec.allOnes 32 →
      exec .analyze s = .next { s with inq := q, err := 9#8, errinfo := BitVec.ofNat 32 c.val, busy := false }) ∧
    (∀ b : Byte, 128 ≤ b.toNat → s.inq = .byte b :: q → s.nonascii ≠ BitVec.allOnes 64 →
      exec .analyze s = .next { s with inq := q, nonascii := s.nonascii + 1#64, warn := true }) ∧
    (∀ b : Byte, 128 ≤ b.toNat → s.inq = .byte b :: q → s.nonascii = BitVec.allOnes 64 →
      exec .analyze s = .next { s with inq := q, err := 10#8, errinfo := 0#32, busy := false }) ∧
    (s.inq = .eos :: q → exec .analyze s = .next { s with inq := q, busy := false })

/-- R133: an `ANALYZE` of `L` bytes that ends without fault (no counter is passed its width) leaves in
`FREQ[b]` the number of items equal to `b`, and the counters sum to `L` − `NONASCII`. -/
def Obligations.AnalyzeCountsTheStream : Prop :=
  ∀ s (bs : List Byte) rest, Starting .analyze s → s.inq = bs.map Item.byte ++ .eos :: rest →
    (∀ c : Symbol, (bs.countP fun b => b.toNat == c.val) < 2 ^ 32) → (bs.countP fun b => 128 ≤ b.toNat) < 2 ^ 64 →
    ∃ t, Sys2Proof.core.run (bs.length + 2) s = .next t ∧
      (∀ c : Symbol, (t.freqAt c).toNat = bs.countP fun b => b.toNat == c.val) ∧
      t.nonascii.toNat = (bs.countP fun b => 128 ≤ b.toNat) ∧
      freqSum t.freq = bs.length - t.nonascii.toNat ∧
      t.warn = (bs.any fun b => 128 ≤ b.toNat) ∧
      t = { s with freq := t.freq, nonascii := t.nonascii, warn := t.warn, inq := rest, phase := .run, busy := false }

/-! ### Priority scheduler -/

/-- R146 (a) for `insert`: the heap invariant is kept, and the entries held are the old ones and the new one. -/
def Obligations.InsertKeepsTheHeap : Prop :=
  ∀ e h, HeapOrdered h → (∀ d ∈ h, d.key ≠ e.key) → HeapOrdered (heapInsert e h) ∧ (heapInsert e h).Perm (e :: h)

/-- R144, R145, R146: `removeMin` returns the entry with the smallest key, whose priority `peekMinPriority` shows; the
others remain, in a heap; on an empty scheduler it faults and `peekMinPriority` answers `PRIO_EMPTY`. -/
def Obligations.RemoveMinTakesTheLeast : Prop :=
  (∀ s e rest, s.heap = e :: rest → HeapOrdered s.heap → (s.heap.map Entry.key).Nodup →
    peekMinPriority s = e.prio ∧ (∀ d ∈ rest, e.key < d.key) ∧
      ∃ t, removeMin s = .ok e t ∧ HeapOrdered t.heap ∧ t.heap.Perm rest ∧ t = { s with heap := t.heap }) ∧
  ∀ s, s.heap = [] → peekMinPriority s = BitVec.allOnes 39 ∧ removeMin s = .raised .heapEmpty 0#32 s

/-! ### Tree builder -/

/-- R161: after `HSEED` the scheduler and the arena hold exactly the 128 seeded leaves, both flags are clear, and nothing
else has changed. -/
def Obligations.HseedSeedsEverySymbol : Prop :=
  ∀ s, ∃ t, exec .hseed s = .next t ∧ t.hn = 128 ∧ t.hseq = 128#8 ∧ t.nn = 128 ∧
    (∀ c : Symbol, t.arena[c.val]? = some ⟨BitVec.ofNat 8 c.val, none, none, (s.freqAt c).zeroExtend 39⟩) ∧
    (∀ e, e ∈ t.heap ↔ ∃ c : Symbol, e = ⟨(s.freqAt c).zeroExtend 39, BitVec.ofNat 8 c.val, BitVec.ofNat 14 c.val⟩) ∧
    HeapOrdered t.heap ∧
    t = { s with heap := t.heap, hseq := t.hseq, arena := t.arena, treeValid := false, tableValid := false, busy := false }

/-- R162: `HMERGE` joins the two smallest entries, the smallest as the left child, and puts their tree back with the exact
sum of their priorities; nothing else changes. -/
def Obligations.HmergeJoinsTheTwoSmallest : Prop :=
  ∀ s, SchedInv s → 2 ≤ s.hn →
    ∃ e1 e2 t, exec .hmerge s = .next t ∧ e1 ∈ s.heap ∧ e2 ∈ s.heap ∧ e1 ≠ e2 ∧ (∀ e ∈ s.heap, e1.key ≤ e.key) ∧
      (∀ e ∈ s.heap, e ≠ e1 → e2.key ≤ e.key) ∧ (e1.prio + e2.prio).toNat = e1.prio.toNat + e2.prio.toNat ∧
      t.arena = s.arena ++ [⟨0xFF#8, some e1.root, some e2.root, e1.prio + e2.prio⟩] ∧
      (∀ e, e ∈ t.heap ↔
        (e ∈ s.heap ∧ e ≠ e1 ∧ e ≠ e2) ∨ e = ⟨e1.prio + e2.prio, s.hseq, BitVec.ofNat 14 s.nn⟩) ∧
      t.hn + 1 = s.hn ∧ t = { s with heap := t.heap, hseq := s.hseq + 1#8, arena := t.arena, busy := false }

/-- R163: `HTAKE` takes the last tree as the result. -/
def Obligations.HtakeTakesTheLastTree : Prop :=
  ∀ s e, s.heap = [e] →
    exec .htake s = .next { s with heap := [], root := e.root, tableValid := false, treeValid := true, busy := false }

/-- R164: `BUILD` leaves exactly the state that `HSEED`, 127 times `HMERGE`, `HTAKE` leave. -/
def Obligations.BuildEqualsItsSteps : Prop :=
  ∀ s, exec .build s = execAll (.hseed :: List.replicate 127 .hmerge ++ [.htake]) s

/-- R165: the structure a `BUILD` leaves, whatever the state it starts in. -/
def Obligations.BuildMakesTheFullTree : Prop :=
  ∀ s, ∃ t, exec .build s = .next t ∧ t.nn = 255 ∧
    (∀ c : Symbol, t.arena[c.val]? = some ⟨BitVec.ofNat 8 c.val, none, none, (s.freqAt c).zeroExtend 39⟩) ∧
    (∀ k, k < 127 → ∃ l r a b, t.arena[128 + k]? = some ⟨0xFF#8, some l, some r, a.freq + b.freq⟩ ∧ l ≠ r ∧
      l.toNat < 128 + k ∧ r.toNat < 128 + k ∧ t.arena[l.toNat]? = some a ∧ t.arena[r.toNat]? = some b) ∧
    (∃ nd, t.arena[254]? = some nd ∧ nd.freq.toNat = freqSum s.freq) ∧ t.hn = 0 ∧
    t = { s with heap := [], hseq := 255#8, arena := t.arena, root := 254#14, treeValid := true, tableValid := false,
                 busy := false }

/-! ### Code generator -/

/-- R181, R182: `GEN` on a valid tree gives every leaf that carries a symbol the path from `ROOT` to it as that symbol's
code, leaves every other slot empty, sets `TABLE_VALID`, and changes nothing else. -/
def Obligations.GenGivesEveryLeafItsPath : Prop :=
  ∀ s, ArenaInv s → s.treeValid = true →
    ∃ t, exec .gen s = .next t ∧
      (∀ (c : Symbol) path, LeafAt s.arena s.root path (BitVec.ofNat 8 c.val) → t.codeAt c = path) ∧
      (∀ c : Symbol, (¬ ∃ path, LeafAt s.arena s.root path (BitVec.ofNat 8 c.val)) → t.codeAt c = []) ∧
      t = { s with ct := t.ct, tableValid := true, busy := false }

/-- R167, R168 (prefix-freedom), R183: after `BUILD` and `GEN`, from any state, every symbol has a code of 1 to 127 bits
and no code is a prefix of another. -/
def Obligations.BuildThenGenIsPrefixFree : Prop :=
  ∀ s, ∃ t u, exec .build s = .next t ∧ exec .gen t = .next u ∧
    (∀ c, 1 ≤ (u.codeAt c).length ∧ (u.codeAt c).length ≤ 127) ∧ PrefixFree u.ct

/-! ### Tree reconstructor -/

/-- R211, R212: `RECON` makes exactly the nodes on the paths of the codes, with frequency 0, puts at the end of each code
the last symbol that has it, and releases the old tree and the scheduler's entries. -/
def Obligations.ReconBuildsTheTableTree : Prop :=
  ∀ s, TableInv s → s.tableValid = true →
    ∃ t, exec .recon s = .next t ∧
      (∀ path, (follow t.arena 0#14 path).isSome = true ↔ ∃ c, path <+: s.codeAt c) ∧
      (∀ c, s.codeAt c ≠ [] →
        ∃ m nd d, follow t.arena 0#14 (s.codeAt c) = some m ∧ nodeAt t.arena m = some nd ∧
          nd.sym = BitVec.ofNat 8 d.val ∧ s.codeAt d = s.codeAt c ∧ ∀ d', s.codeAt d' = s.codeAt c → d' ≤ d) ∧
      (∀ nd ∈ t.arena, nd.freq = 0#39) ∧
      t = { s with arena := t.arena, heap := [], root := 0#14, treeValid := true, busy := false }

/-- R212 (f): if the non-empty codes are prefix-free, `GEN` after `RECON` writes back exactly `CT`. -/
def Obligations.GenUndoesRecon : Prop :=
  ∀ s, TableInv s → s.tableValid = true → PrefixFree s.ct →
    ∃ t u, exec .recon s = .next t ∧ exec .gen t = .next u ∧ u.ct = s.ct

/-! ### Code table image -/

/-- R193: with a valid table `HIDUMP` emits the image after the bytes already in `OUTQ` and changes nothing else; without
one it faults before anything is emitted. -/
def Obligations.HidumpEmitsTheImage : Prop :=
  ∀ s, (s.tableValid = true → exec .hidump s = .next { s with outq := s.outq ++ hiImage s.ct, busy := false }) ∧
    (s.tableValid = false → exec .hidump s = .next { s with err := 13#8, errinfo := 0#32, busy := false })

/-- R192: the length of the image. -/
def Obligations.ImageLengthIsFixedPlusCodes : Prop :=
  ∀ table : Vector Code 128, (hiImage table).length = 531 + (symbols.map fun c => table[c.val].length).sum

/-- R196, R198: the start rule drops the pair and empties the table; the end rule completes a last line without line end
and makes the table valid. -/
def Obligations.HiloadStartAndEnd : Prop :=
  (∀ s, s.phase = .start →
    ∃ t, exec .hiload s = .next t ∧ (∀ c, t.codeAt c = []) ∧
      t = { s with ct := t.ct, tableValid := false, treeValid := false, pst := .first, pidx := 0, pbuf := [],
                   phase := .run }) ∧
  ∀ s q, s.phase = .run → s.inq = .eos :: q →
    ∃ t, exec .hiload s = .next t ∧ (∀ d, d ≠ s.pidx → t.codeAt d = s.codeAt d) ∧
      (s.pst = .first ∨ s.pst = .sol → t.codeAt s.pidx = s.codeAt s.pidx) ∧
      (s.pst = .idx ∨ s.pst = .sep → t.codeAt s.pidx = []) ∧ (s.pst = .code → t.codeAt s.pidx = s.pbuf) ∧
      t = { s with ct := t.ct, tableValid := true, inq := q, busy := false }

/-- R197: the parser's table, row by row. `u` is the state with the byte taken from `INQ`. -/
def Obligations.HiloadParsesByItsTable : Prop :=
  ∀ s c q, s.phase = .run → s.inq = .byte c :: q →
    let u : State := { s with inq := q }
    let bad (e : BitVec 8) (info : Nat) : State := { u with err := e, errinfo := BitVec.ofNat 32 info, busy := false }
    let next (t : State) : Prop := exec .hiload s = .next t
    let digit : Prop := 0x30 ≤ c.toNat ∧ c.toNat ≤ 0x39
    let bit : Prop := c = 0x30#8 ∨ c = 0x31#8
    let ws : Prop := c = 0x20#8 ∨ c = 0x09#8
    (s.pst = .first → c = 0x0A#8 → next { u with pst := .sol }) ∧
    (s.pst = .first → c ≠ 0x0A#8 → next u) ∧
    (s.pst = .sol → c = 0x0A#8 → next u) ∧
    (s.pst = .sol → digit → ∃ i : Symbol, i.val = c.toNat - 0x30 ∧ next { u with pidx := i, pst := .idx }) ∧
    (s.pst = .sol → ¬ digit → c ≠ 0x0A#8 → next (bad 7#8 c.toNat)) ∧
    (s.pst = .idx → digit → s.pidx.val * 10 + (c.toNat - 0x30) ≤ 127 →
      ∃ i : Symbol, i.val = s.pidx.val * 10 + (c.toNat - 0x30) ∧ next { u with pidx := i }) ∧
    (s.pst = .idx → digit → 127 < s.pidx.val * 10 + (c.toNat - 0x30) → next (bad 7#8 c.toNat)) ∧
    (s.pst = .idx → ws → next { u with pbuf := [], pst := .sep }) ∧
    (s.pst = .idx → c = 0x0A#8 → next { u with ct := s.ct.set s.pidx.val [], pst := .sol }) ∧
    (s.pst = .idx → ¬ digit → ¬ ws → c ≠ 0x0A#8 → next (bad 7#8 c.toNat)) ∧
    (s.pst = .sep → ws → next u) ∧
    (s.pst = .sep → bit → next { u with pbuf := [c == 0x31#8], pst := .code }) ∧
    (s.pst = .sep → c = 0x0A#8 → next { u with ct := s.ct.set s.pidx.val [], pst := .sol }) ∧
    (s.pst = .sep → ¬ ws → ¬ bit → c ≠ 0x0A#8 → next (bad 1#8 (s.pidx.val * 256 + c.toNat))) ∧
    (s.pst = .code → bit → s.pbuf.length = 127 → next (bad 8#8 (s.pidx.val * 256))) ∧
    (s.pst = .code → bit → s.pbuf.length ≠ 127 → next { u with pbuf := s.pbuf ++ [c == 0x31#8] }) ∧
    (s.pst = .code → c = 0x0A#8 → next { u with ct := s.ct.set s.pidx.val s.pbuf, pst := .sol }) ∧
    (s.pst = .code → ¬ bit → c ≠ 0x0A#8 → next (bad 1#8 (s.pidx.val * 256 + c.toNat)))

/-- R199: a `HILOAD` whose input is the image of a table ends without fault with that table. -/
def Obligations.HiloadReloadsAnImage : Prop :=
  ∀ s (table : Vector Code 128) rest, (∀ c : Symbol, table[c.val].length ≤ 127) → Starting .hiload s →
    s.inq = (hiImage table).map Item.byte ++ .eos :: rest →
    ∃ t, Sys2Proof.core.run ((hiImage table).length + 2) s = .next t ∧
      t = { s with ct := table, tableValid := true, treeValid := false, inq := rest, phase := .run, busy := false,
                   pst := t.pst, pidx := t.pidx, pbuf := t.pbuf }

/-! ### Bit stream -/

/-- R226, R227 (c), (d): packing then unpacking gives the bits and up to seven zeros; unpacking then packing is the
identity; the packed length is `ceil(n / 8)`. -/
def Obligations.PackAndUnpackAgree : Prop :=
  (∀ x, unpack (pack x) = x ++ List.replicate (paddingBits x.length) false) ∧ (∀ y, pack (unpack y) = y) ∧
    ∀ x, (pack x).length = (x.length + 7) / 8

/-- R227 (a): from an empty writer, writing bits and flushing emits `pack` of them and counts its bytes. -/
def Obligations.WriterEmitsThePackedBits : Prop :=
  ∀ s x, s.acc = 0#8 → s.wcnt = 0 → s.outBytes.toNat + (pack x).length < 2 ^ 64 →
    ((forEach writeBit x s).andThen fun _ t => flush t) =
      .ok () { s with outq := s.outq ++ pack x, outBytes := s.outBytes + BitVec.ofNat 64 (pack x).length }

/-! ### Compressor -/

/-- R242 to R244: the start rule with a valid pair; a byte of 128 or more is counted and reported and emits nothing; a
symbol with an empty code is counted and emits nothing; a full byte counter faults. -/
def Obligations.CompressStartAndSilentBytes : Prop :=
  (∀ s, s.phase = .start → s.treeValid = true → s.tableValid = true →
    exec .compress s = .next { s with acc := 0#8, wcnt := 0, inBytes := 0#64, outBytes := 0#64, nonascii := 0#64,
                                      warn := false, phase := .run }) ∧
  ∀ s b q, s.phase = .run → s.inq = .byte b :: q →
    (s.inBytes = BitVec.allOnes 64 →
      exec .compress s = .next { s with inq := q, err := 10#8, errinfo := 0#32, busy := false }) ∧
    (s.inBytes ≠ BitVec.allOnes 64 → 128 ≤ b.toNat →
      exec .compress s = .next { s with inq := q, inBytes := s.inBytes + 1#64, nonascii := s.nonascii + 1#64,
                                        warn := true }) ∧
    (s.inBytes ≠ BitVec.allOnes 64 → b.toNat < 128 → codeOfByte s.ct b = [] →
      exec .compress s = .next { s with inq := q, inBytes := s.inBytes + 1#64 })

/-- R221, R242: a symbol's code goes behind the bits the writer holds (the top `WCNT` bits of `ACC`, the rest 0, R40);
each full byte is emitted and counted, and what is left of the last byte is held. Where `OUT_BYTES` is full before the last
of these bytes, `putByte` faults there (R311): the bytes before are emitted, `ACC` holds the byte that is not. -/
def Obligations.CompressAppendsTheCode : Prop :=
  ∀ s b q, s.phase = .run → s.inq = .byte b :: q → b.toNat < 128 → s.inBytes ≠ BitVec.allOnes 64 →
    s.acc.toNat % 2 ^ (8 - s.wcnt.val) = 0 →
    let bits := (bitsOfByte s.acc).take s.wcnt.val ++ codeOfByte s.ct b
    let full := bits.length / 8
    let room := 2 ^ 64 - 1 - s.outBytes.toNat
    (full ≤ room →
      ∃ t, exec .compress s = .next t ∧ t.outq = s.outq ++ pack (bits.take (8 * full)) ∧
        t.outBytes = s.outBytes + BitVec.ofNat 64 full ∧ (bitsOfByte t.acc).take t.wcnt.val = bits.drop (8 * full) ∧
        t.acc.toNat % 2 ^ (8 - t.wcnt.val) = 0 ∧
        t = { s with inq := q, inBytes := s.inBytes + 1#64, outq := t.outq, outBytes := t.outBytes, acc := t.acc,
                     wcnt := t.wcnt }) ∧
    (room < full →
      exec .compress s = .next
        { s with inq := q, inBytes := s.inBytes + 1#64, outq := s.outq ++ pack (bits.take (8 * room)),
                 outBytes := BitVec.allOnes 64, acc := packByte ((bits.drop (8 * room)).take 8), wcnt := 7, err := 10#8,
                 errinfo := 0#32, busy := false })

/-- R222, R242, the end rule: `eos` emits the held bits in one byte, padded with zeros, where there are any, and ends the
command; with `OUT_BYTES` full that faults. -/
def Obligations.CompressEndsWithAFlush : Prop :=
  ∀ s q, s.phase = .run → s.inq = .eos :: q →
    (0 < s.wcnt.val → s.outBytes ≠ BitVec.allOnes 64 →
      exec .compress s = .next { s with inq := q, outq := s.outq ++ [s.acc], outBytes := s.outBytes + 1#64, acc := 0#8,
                                        wcnt := 0, busy := false }) ∧
    (0 < s.wcnt.val → s.outBytes = BitVec.allOnes 64 →
      exec .compress s = .next { s with inq := q, err := 10#8, errinfo := 0#32, busy := false }) ∧
    (s.wcnt.val = 0 → exec .compress s = .next { s with inq := q, busy := false })

/-- R245: a `COMPRESS` emits `pack` of the concatenated codes of its input, and counts the bytes read and emitted. -/
def Obligations.CompressPacksTheCodes : Prop :=
  ∀ s (bs : List Byte) rest, Starting .compress s → s.treeValid = true → s.tableValid = true →
    s.inq = bs.map Item.byte ++ .eos :: rest → bs.length < 2 ^ 64 → (pack (bs.flatMap (codeOfByte s.ct))).length < 2 ^ 64 →
    Sys2Proof.core.run (bs.length + 2) s = .next
      { s with inq := rest, outq := s.outq ++ pack (bs.flatMap (codeOfByte s.ct)),
               inBytes := BitVec.ofNat 64 bs.length,
               outBytes := BitVec.ofNat 64 (pack (bs.flatMap (codeOfByte s.ct))).length,
               nonascii := BitVec.ofNat 64 (bs.countP fun b => 128 ≤ b.toNat), warn := bs.any fun b => 128 ≤ b.toNat,
               acc := 0#8, wcnt := 0, phase := .run, busy := false }

/-! ### Decompressor -/

/-- R262, the start and end rules: the walk begins at `ROOT`; `eos` ends the command and drops an unfinished walk. -/
def Obligations.DecompressStartAndEnd : Prop :=
  (∀ s, s.phase = .start → s.treeValid = true →
    exec .decompress s = .next { s with rbyte := 0#8, rcnt := 0, cur := s.root, phase := .run }) ∧
  ∀ s q, s.phase = .run → s.inq = .eos :: q → exec .decompress s = .next { s with inq := q, busy := false }

/-- R261, R262, the byte rule: all eight bits are walked, most significant first; at an absent child the command faults
with the node, keeping the bytes decoded before. -/
def Obligations.DecompressWalksEveryBit : Prop :=
  ∀ s b q, s.phase = .run → s.inq = .byte b :: q →
    (∀ out n, decodeBits s.arena s.root s.cur (bitsOfByte b) = some (out, n) →
      exec .decompress s = .next { s with inq := q, outq := s.outq ++ out, rbyte := b, rcnt := 0, cur := n }) ∧
    (∀ before bit after out n nd, bitsOfByte b = before ++ bit :: after →
      decodeBits s.arena s.root s.cur before = some (out, n) → nodeAt s.arena n = some nd → nd.child bit = none →
      ∃ t, exec .decompress s = .next t ∧ t.rcnt.val = after.length ∧
        t = { s with inq := q, outq := s.outq ++ out, rbyte := b, rcnt := t.rcnt, cur := n, err := 6#8,
                     errinfo := n.zeroExtend 32, busy := false })

/-- R263, R264: with a matched pair, `DECOMPRESS` of the packed codes of a symbol sequence emits the sequence and then what
its `p` padding bits decode to. Where the leftmost leaf is at depth `d0`: the spurious tail, `p / d0` copies of its symbol.
Where the left chain ends at depth `d1` at a node without a left child: nothing more if `p` is at most `d1`, and else
`E_BAD_PATH` at that node. -/
def Obligations.RoundTripWithSpuriousTail : Prop :=
  ∀ s (symbolsIn : List Symbol) rest, Matched s → Starting .decompress s → (∀ c ∈ symbolsIn, s.codeAt c ≠ []) →
    let stream := pack (symbolsIn.flatMap s.codeAt)
    let p := paddingBits (symbolsIn.flatMap s.codeAt).length
    s.inq = stream.map Item.byte ++ .eos :: rest →
    (∀ d0 s0, 0 < d0 → LeafAt s.arena s.root (List.replicate d0 false) s0 →
      ∃ t, Sys2Proof.core.run (stream.length + 2) s = .next t ∧
        t = { s with inq := rest, outq := s.outq ++ symbolsIn.map symByte ++ List.replicate (p / d0) s0, rbyte := t.rbyte,
                     rcnt := 0, cur := t.cur, phase := .run, busy := false }) ∧
    ∀ d1 m nd, follow s.arena s.root (List.replicate d1 false) = some m → nodeAt s.arena m = some nd → nd.left = none →
      (d1 = 0 ∨ nd.isLeaf = false) →
      (p ≤ d1 →
        ∃ t, Sys2Proof.core.run (stream.length + 2) s = .next t ∧
          t = { s with inq := rest, outq := s.outq ++ symbolsIn.map symByte, rbyte := t.rbyte, rcnt := 0, cur := t.cur,
                       phase := .run, busy := false }) ∧
      (d1 < p →
        ∃ t, Sys2Proof.core.run (stream.length + 1) s = .next t ∧ t.rcnt.val = p - d1 - 1 ∧
          t = { s with inq := .eos :: rest, outq := s.outq ++ symbolsIn.map symByte, rbyte := t.rbyte, rcnt := t.rcnt,
                       cur := m, phase := .run, err := 6#8, errinfo := m.setWidth 32, busy := false })

/-! ### Preconditions and faults -/

/-- R303, R311, R312: a command that needs trees, a tree or a table tests them first and faults before any change;
`COMPRESS` tests the tree before the table. -/
def Obligations.PreconditionsAreTestedFirst : Prop :=
  ∀ s, (s.treeValid = false → exec .gen s = .next { s with err := 2#8, errinfo := 0#32, busy := false }) ∧
    (s.tableValid = false → exec .recon s = .next { s with err := 13#8, errinfo := 0#32, busy := false }) ∧
    (s.tableValid = false → exec .hidump s = .next { s with err := 13#8, errinfo := 0#32, busy := false }) ∧
    (s.phase = .start → s.treeValid = false →
      exec .compress s = .next { s with err := 2#8, errinfo := 0#32, busy := false }) ∧
    (s.phase = .start → s.treeValid = true → s.tableValid = false →
      exec .compress s = .next { s with err := 13#8, errinfo := 0#32, busy := false }) ∧
    (s.phase = .start → s.treeValid = false →
      exec .decompress s = .next { s with err := 2#8, errinfo := 0#32, busy := false }) ∧
    (s.hn < 2 → exec .hmerge s = .next { s with err := 3#8, errinfo := BitVec.ofNat 32 s.hn, busy := false }) ∧
    (s.hn = 0 → exec .htake s = .next { s with err := 3#8, errinfo := 0#32, busy := false }) ∧
    (1 < s.hn → exec .htake s = .next { s with err := 12#8, errinfo := BitVec.ofNat 32 s.hn, busy := false })

/-- R310, R311: a `raise` writes `ERR`, `ERRINFO` and `BUSY` and ends the step it stands in, in the state its earlier
statements left: nothing after it in the pseudocode runs, nor what closes the step. So it is for a whole step and for the
three rules of a stream step; after a start rule's `raise`, `PHASE <- RUN` does not happen (R62). -/
def Obligations.RaiseEndsTheCommand : Prop :=
  (∀ (first : State → Res Unit) (later : Unit → State → Res Unit) s e info u, first s = .raised e info u →
    wholeStep (fun t => (first t).andThen later) s = .next { u with err := e.code, errinfo := info, busy := false }) ∧
  ∀ (startRule : State → Res Unit) (byteRule : Byte → State → Res Unit) (endRule : State → Res Unit) s e info u,
    let ends : Prop :=
      streamStep startRule byteRule endRule s = .next { u with err := e.code, errinfo := info, busy := false }
    (s.phase = .start → startRule s = .raised e info u → ends) ∧
    (∀ b q, s.phase = .run → s.inq = .byte b :: q → byteRule b { s with inq := q } = .raised e info u → ends) ∧
    ∀ q, s.phase = .run → s.inq = .eos :: q → endRule { s with inq := q } = .raised e info u → ends

/-- R104: a word that is none of the fifteen is accepted when the engine is idle and fault-free, and faults at the first
engine step, with the word in `ERRINFO` and no other effect. -/
def Obligations.IllegalWordFaults : Prop :=
  ∀ s w, (∀ i, w ≠ encode i) →
    (s.busy = false → s.err = 0#8 →
      memWrite 0x00000#20 4 w s = (.ok, { s with cmdr := w, phase := .start, busy := true })) ∧
    engineStep { s with cmdr := w, phase := .start, busy := true } =
      .next { s with cmdr := w, phase := .start, err := 11#8, errinfo := w, busy := false }

/-- R26: once a fault is recorded no later fault overwrites it; it stays until it is cleared to 0. -/
def Obligations.RecordedFaultIsNeverOverwritten : Prop :=
  ∀ s t, EngineInv s → s.err ≠ 0#8 → step s = .next t →
    (t.err = s.err ∧ t.errinfo = s.errinfo) ∨ (t.err = 0#8 ∧ t.errinfo = 0#32)

/-! ### Register port -/

/-- R65: an access answered `BUSERR` changes no state at all. -/
def Obligations.BusErrorChangesNothing : Prop :=
  ∀ addr size v s, ((memRead addr size s).1 = .busErr → (memRead addr size s).2 = s) ∧
    ((memWrite addr size v s).1 = .busErr → (memWrite addr size v s).2 = s)

/-- R64 steps 1 to 3, R66, R75: an access that is not 32 bits at a multiple of 4, at a reserved address or at a node not
allocated, a read of a write-only register and a write to a read-only one are each answered `BUSERR`, idle or busy. -/
def Obligations.IllFormedUnmappedOrWrongWayAccessIsRefused : Prop :=
  ∀ (addr : Addr) size v s,
    (size ≠ 4 ∨ addr.toNat % 4 ≠ 0 → memRead addr size s = (.busErr, s) ∧ memWrite addr size v s = (.busErr, s)) ∧
    ((0x48 ≤ addr.toNat ∧ addr.toNat < 0x400) ∨ (0x600 ≤ addr.toNat ∧ addr.toNat < 0x1000) ∨
        (0x2000 ≤ addr.toNat ∧ addr.toNat < 0x40000) ∨ 0x40000 + 16 * s.nn ≤ addr.toNat →
      memRead addr size s = (.busErr, s) ∧ memWrite addr size v s = (.busErr, s)) ∧
    (addr.toNat = 0x00 ∨ addr.toNat = 0x40 → memRead addr size s = (.busErr, s)) ∧
    ((0x04 ≤ addr.toNat ∧ addr.toNat ≤ 0x3C) ∨ addr.toNat = 0x44 ∨ (0x1000 ≤ addr.toNat ∧ addr.toNat < 0x2000) ∨
        0x40000 ≤ addr.toNat →
      memWrite addr size v s = (.busErr, s))

/-- R68: while `BUSY` = 1 the scheduler, tree, counter, table and node windows (0x0002C to 0x0003C, 0x00400 and above) are
hidden; the command, status, fault, counter and stream registers are not. -/
def Obligations.WindowsAreHiddenWhileBusy : Prop :=
  ∀ (addr : Addr) size v s, s.busy = true →
    (((0x2C ≤ addr.toNat ∧ addr.toNat ≤ 0x3C) ∨ 0x400 ≤ addr.toNat) →
      memRead addr size s = (.busErr, s) ∧ memWrite addr size v s = (.busErr, s)) ∧
    (addr.toNat % 4 = 0 → ((4 ≤ addr.toNat ∧ addr.toNat ≤ 0x28) ∨ addr.toNat = 0x44) → ∃ w, (memRead addr 4 s).1 = .data w)

/-- R103: what a write of a word to `CMD` does, in the order of the rule. -/
def Obligations.CommandAcceptance : Prop :=
  ∀ s w, (w = 0x00000002#32 → (memWrite 0x00000#20 4 w s).1 = .ok ∧
      engineOnly (memWrite 0x00000#20 4 w s).2 = State.reset) ∧
    (w ≠ 0x00000002#32 → s.busy = true → memWrite 0x00000#20 4 w s = (.busErr, s)) ∧
    (w ≠ 0x00000002#32 → s.busy = false → s.err ≠ 0#8 → w ≠ 0x00000001#32 → memWrite 0x00000#20 4 w s = (.busErr, s)) ∧
    (w ≠ 0x00000002#32 → s.busy = false → (s.err = 0#8 ∨ w = 0x00000001#32) →
      memWrite 0x00000#20 4 w s = (.ok, { s with cmdr := w, phase := .start, busy := true }))

/-- R37: the stream registers. -/
def Obligations.StreamRegistersQueueAndPop : Prop :=
  ∀ s w, (w.getLsbD 8 = false → memWrite 0x00040#20 4 w s = (.ok, { s with inq := s.inq ++ [.byte (w.setWidth 8)] })) ∧
    (w.getLsbD 8 = true → memWrite 0x00040#20 4 w s = (.ok, { s with inq := s.inq ++ [.eos] })) ∧
    memRead 0x00040#20 4 s = (.busErr, s) ∧ memWrite 0x00044#20 4 w s = (.busErr, s) ∧
    (∀ b q, s.outq = b :: q → memRead 0x00044#20 4 s = (.data (0x80000000#32 ||| b.setWidth 32), { s with outq := q })) ∧
    (s.outq = [] → memRead 0x00044#20 4 s = (.data 0#32, s))

/-- R76: a read of any register but `OUT_DATA` is free of side effects. -/
def Obligations.OnlyOutDataReadsHaveEffects : Prop :=
  ∀ (addr : Addr) size s, addr ≠ 0x00044#20 → (memRead addr size s).2 = s

/-- R25: the bits of `STATUS`, readable at any time, without side effect; it refuses writes, and reads 0x00000010 after
reset. -/
def Obligations.StatusShowsTheFlags : Prop :=
  (∀ s, (∃ w, memRead 0x00004#20 4 s = (.data w, s) ∧ w.getLsbD 0 = s.busy ∧ w.getLsbD 1 = (s.err != 0#8) ∧
      w.getLsbD 2 = s.treeValid ∧ w.getLsbD 3 = s.tableValid ∧ w.getLsbD 4 = s.inq.isEmpty ∧
      w.getLsbD 5 = !s.outq.isEmpty ∧ w.getLsbD 6 = s.warn ∧ ∀ k, 7 ≤ k → w.getLsbD k = false) ∧
    ∀ v, memWrite 0x00004#20 4 v s = (.busErr, s)) ∧
  memRead 0x00004#20 4 State.reset = (.data 0x00000010#32, State.reset)

/-- R26 to R30: what the fault, warning and counter registers read as at any time (R68), and the scheduler's head and the
tree's registers while idle. -/
def Obligations.CountersAndHeadsReadBack : Prop :=
  ∀ s,
    (∃ w, memRead 0x00008#20 4 s = (.data w, s) ∧ w.setWidth 8 = s.err ∧ ∀ k, 8 ≤ k → w.getLsbD k = false) ∧
    memRead 0x0000C#20 4 s = (.data s.errinfo, s) ∧
    (∃ w, memRead 0x00010#20 4 s = (.data w, s) ∧ w.getLsbD 0 = s.warn ∧ ∀ k, 1 ≤ k → w.getLsbD k = false) ∧
    (∃ lo hi, memRead 0x00014#20 4 s = (.data lo, s) ∧ memRead 0x00018#20 4 s = (.data hi, s) ∧ hi ++ lo = s.nonascii) ∧
    (∃ lo hi, memRead 0x0001C#20 4 s = (.data lo, s) ∧ memRead 0x00020#20 4 s = (.data hi, s) ∧ hi ++ lo = s.inBytes) ∧
    (∃ lo hi, memRead 0x00024#20 4 s = (.data lo, s) ∧ memRead 0x00028#20 4 s = (.data hi, s) ∧ hi ++ lo = s.outBytes) ∧
    (s.busy = false →
      (s.hn ≤ 128 → ∃ w, memRead 0x0002C#20 4 s = (.data w, s) ∧ w.toNat = s.hn) ∧
      (∃ lo hi, memRead 0x00030#20 4 s = (.data lo, s) ∧ memRead 0x00034#20 4 s = (.data hi, s) ∧
        hi.toNat * 2 ^ 32 + lo.toNat = (peekMinPriority s).toNat) ∧
      (s.nn ≤ Config.nodeCap → ∃ w, memRead 0x00038#20 4 s = (.data w, s) ∧ w.toNat = s.nn) ∧
      ∃ w, memRead 0x0003C#20 4 s = (.data w, s) ∧ w.setWidth 14 = s.root ∧ w.getLsbD 31 = s.treeValid ∧
        ∀ k, 14 ≤ k → k ≠ 31 → w.getLsbD k = false)

/-- R22, R66: while idle a write to `FREQ[i]` stores the word there and nowhere else, and it reads back. -/
def Obligations.FreqWindowReadsBack : Prop :=
  ∀ s (c : Symbol) (addr : Addr) v, s.busy = false → addr.toNat = 0x400 + 4 * c.val →
    ∃ t, memWrite addr 4 v s = (.ok, t) ∧ memRead addr 4 t = (.data v, t) ∧ t.freqAt c = v ∧
      (∀ d, d ≠ c → t.freqAt d = s.freqAt d) ∧ t = { s with freq := t.freq }

/-- R35: the host's view of a table slot: the length, then the code left-aligned in 128 bits, then three zero words. -/
def Obligations.TableWindowIsLeftAligned : Prop :=
  ∀ s (c : Symbol) (addr : Addr) k, s.busy = false → (s.codeAt c).length ≤ 127 → k < 8 →
    addr.toNat = 0x1000 + 32 * c.val + 4 * k →
    ∃ w, memRead addr 4 s = (.data w, s) ∧ (k = 0 → w.toNat = (s.codeAt c).length) ∧
      (1 ≤ k → k ≤ 4 → ∀ i, i < 32 → w.getLsbD i = (s.codeAt c).getD (127 - (32 * (k - 1) + i)) false) ∧
      (5 ≤ k → w = 0#32)

/-- R36: the host's view of a node; a node at or above `NN` is a bus error, and the window is read-only. -/
def Obligations.NodeWindowShowsTheFields : Prop :=
  ∀ s n m (addr : Addr), s.busy = false → m < 4 → addr.toNat = 0x40000 + 16 * n + 4 * m →
    (∀ v, memWrite addr 4 v s = (.busErr, s)) ∧ (s.nn ≤ n → memRead addr 4 s = (.busErr, s)) ∧
    ∀ nd, s.nn ≤ Config.nodeCap → s.arena[n]? = some nd → ∃ w, memRead addr 4 s = (.data w, s) ∧
      (m = 0 → w.setWidth 8 = nd.sym ∧ w.getLsbD 8 = nd.left.isSome ∧ w.getLsbD 9 = nd.right.isSome ∧
        ∀ k, 10 ≤ k → w.getLsbD k = false) ∧
      (m = 1 → w = ((nd.right.getD 0#14).setWidth 16 ++ (nd.left.getD 0#14).setWidth 16 : BitVec 32)) ∧
      (m = 2 → w = nd.freq.setWidth 32) ∧ (m = 3 → w.toNat = nd.freq.toNat / 2 ^ 32)

/-- R106: `drain` reads every byte waiting in `OUTQ`, in order, and one empty answer. -/
def Obligations.DrainReadsEveryByte : Prop :=
  ∀ s rest, s.busy = false → s.sched = [] → s.host = .drain :: rest →
    Sys2Proof.core.run (s.outq.length + 1) s = .next
      { s with outq := [], host := rest,
               resps := s.resps ++ s.outq.map (fun b => .data (0x80000000#32 ||| b.setWidth 32)) ++ [.data 0#32] }

/-! ### The whole machine -/

/-- R62: an engine step of an accepted legal word is that command's step, whether its turn is scheduled or comes by
itself (log entries 1 and 9). The third clause is about the model's own `withFetchWord`: the word placed runs as the very
next event, for every command; that `SRST`'s word runs so is the model's choice, since R103 never leaves it in `CMDR` (log
entry 5). -/
def Obligations.StepRunsTheDecodedCommand : Prop :=
  (∀ s i rest, s.sched = .engine :: rest → s.engineEnabled = true → decode s.cmdr = .ok i →
    step s = exec i { s with sched := rest }) ∧
  (∀ s i, s.sched = [] → s.engineEnabled = true → decode s.cmdr = .ok i → step s = exec i s) ∧
  ∀ (s : State) i, step (s.withFetchWord 32 (encode i).toNat) = exec i { s with cmdr := encode i, phase := .start, busy := true }

/-- R101: some words of the opcode table, from every group of commands, decode to the commands they stand for. -/
def Obligations.TableWordsDecode : Prop :=
  decode 0x00000000#32 = .ok .nop ∧ decode 0x00000002#32 = .ok .srst ∧ decode 0x00000011#32 = .ok .analyze ∧
    decode 0x00000023#32 = .ok .build ∧ decode 0x00000031#32 = .ok .recon ∧ decode 0x00000041#32 = .ok .hiload ∧
    decode 0x00000051#32 = .ok .decompress

/-- R101, R104: a word decodes to a command exactly when it is that command's word. -/
def Obligations.DecodeIsInverseOfEncode : Prop :=
  ∀ w i, decode w = .ok i ↔ w = encode i

/-- R22, R23, R26 to R28, R30 to R33, R35, R39 to R42, R346, R349: over all commands, which of them can change which
element. No command but `SRST` takes a byte out of `OUTQ`; only `CLRERR` and `SRST` empty `INQ`, and a stream command takes
at most its head; `ERR` is otherwise written by a fault alone, which ends the command; no command sets `BUSY`; none touches
the model's own fields (log entry 1). -/
def Obligations.OnlyTheNamedCommandsWrite : Prop :=
  ∀ i s t, exec i s = .next t →
    (i ∉ [.fclr, .analyze, .srst] → t.freq = s.freq) ∧
    (i ∉ [.gen, .hiload, .srst] → t.ct = s.ct) ∧
    (i ∉ [.htake, .build, .recon, .srst] → t.root = s.root) ∧
    (i ∉ [.hseed, .hmerge, .build, .recon, .srst] → t.arena = s.arena) ∧
    (i ∉ [.hseed, .hmerge, .htake, .build, .recon, .srst] → t.heap = s.heap) ∧
    (i ∉ [.hseed, .hmerge, .build, .srst] → t.hseq = s.hseq) ∧
    (i ∉ [.hseed, .htake, .build, .recon, .hiload, .srst] → t.treeValid = s.treeValid) ∧
    (i ∉ [.hseed, .htake, .build, .gen, .hiload, .srst] → t.tableValid = s.tableValid) ∧
    (i ∉ [.compress, .srst] → t.inBytes = s.inBytes ∧ t.outBytes = s.outBytes ∧ t.acc = s.acc ∧ t.wcnt = s.wcnt) ∧
    (i ∉ [.analyze, .compress, .srst] → t.nonascii = s.nonascii) ∧
    (i ∉ [.analyze, .compress, .clrerr, .srst] → t.warn = s.warn) ∧
    (i ∉ [.decompress, .srst] → t.rbyte = s.rbyte ∧ t.rcnt = s.rcnt ∧ t.cur = s.cur) ∧
    (i ∉ [.hiload, .srst] → t.pst = s.pst ∧ t.pidx = s.pidx ∧ t.pbuf = s.pbuf) ∧
    (i ≠ .srst → s.outq <+: t.outq ∧ t.cmdr = s.cmdr) ∧
    (i ∉ [.hidump, .compress, .decompress, .srst] → t.outq = s.outq) ∧
    (i.isStream = false → i ∉ [.clrerr, .srst] → t.inq = s.inq) ∧
    (i.isStream = true → t.inq = s.inq ∨ t.inq = s.inq.tail) ∧
    (i.isStream = false → i ≠ .srst → t.phase = s.phase) ∧
    (i ∉ [.clrerr, .srst] → (t.err = s.err ∧ t.errinfo = s.errinfo) ∨ (t.err ≠ 0#8 ∧ t.busy = false)) ∧
    (i ∈ [.nop, .fclr, .hseed, .build] → t.err = s.err ∧ t.errinfo = s.errinfo) ∧
    (t.busy = true → s.busy = true) ∧
    t.host = s.host ∧ t.sched = s.sched ∧ t.resps = s.resps

/-- R63, R114: a command that is no stream command is one engine step, after which `BUSY` = 0. -/
def Obligations.NonStreamCommandIsOneStep : Prop :=
  ∀ i s t, i.isStream = false → exec i s = .next t → t.busy = false

/-- R114, R346, R352: once its `eos` is in `INQ`, a command in progress ends after at most one engine step per item and one
for its start. -/
def Obligations.BusyEndsOnceEosIsQueued : Prop :=
  ∀ s, EngineInv s → s.busy = true → s.sched = [] → .eos ∈ s.inq →
    ∃ n t, n ≤ s.inq.length + 1 ∧ Sys2Proof.core.run n s = .next t ∧ t.busy = false

/-- The invariant holds at reset. -/
def Obligations.ResetMeetsTheInvariant : Prop := EngineInv State.reset

/-- R31, R33, R34, R142, R166, R212, R301, R311: every event keeps the engine's invariant: the heap order and the scheduler's
counts, the strict tree, the code lengths, the control registers. -/
def Obligations.EveryEventKeepsTheInvariant : Prop :=
  ∀ s t, EngineInv s → step s = .next t → EngineInv t

/-- R83, R301: from a state that meets the invariant no event stops the machine, so no run does: every index a rule computes
is in range, every walk of `GEN` ends within 127 bits, no word is refused. -/
def Obligations.RunsNeverStop : Prop := ∀ s, EngineInv s → SafeRun s

/-! ### Statistics of the host -/

/-- R247: the law of `round5`, whatever its open choice. -/
def Obligations.RoundFiveMeetsItsLaw : Prop :=
  ∀ q : Rat, (∃ z : Int, round5 q = (z : Rat) / 100000) ∧ |round5 q - q| < 1 / 100000 ∧
    ∀ z : Int, q = (z : Rat) / 100000 → round5 q = q

/-- R246: the two ratios, with the undefined value where a divisor is zero. -/
def Obligations.RatiosAreGuarded : Prop :=
  ∀ i o : Count, (o = 0#64 → compressionRatio i o = none) ∧ (i = 0#64 → spaceSavingPercent i o = none) ∧
    (o ≠ 0#64 → compressionRatio i o = some (round5 ((i.toNat : Rat) / (o.toNat : Rat)))) ∧
    (i ≠ 0#64 → spaceSavingPercent i o = some (round5 ((1 - (o.toNat : Rat) / (i.toNat : Rat)) * 100)))
end

