-- ==== Sys2Proof/Laws/State.lean ====
section
/-! SUPPORT. The named updates of State, field by field: what each one writes and what it leaves. -/

namespace Sys2Proof.Machine

section
variable (s : State)

@[simp] theorem State.setFreq_freq (c : Symbol) (v : Freq) : (s.setFreq c v).freq = s.freq.set c.val v := rfl
@[simp] theorem State.setFreq_heap (c : Symbol) (v : Freq) : (s.setFreq c v).heap = s.heap := rfl
@[simp] theorem State.setFreq_hseq (c : Symbol) (v : Freq) : (s.setFreq c v).hseq = s.hseq := rfl
@[simp] theorem State.setFreq_arena (c : Symbol) (v : Freq) : (s.setFreq c v).arena = s.arena := rfl
@[simp] theorem State.setFreq_root (c : Symbol) (v : Freq) : (s.setFreq c v).root = s.root := rfl
@[simp] theorem State.setFreq_ct (c : Symbol) (v : Freq) : (s.setFreq c v).ct = s.ct := rfl
@[simp] theorem State.setFreq_treeValid (c : Symbol) (v : Freq) : (s.setFreq c v).treeValid = s.treeValid := rfl
@[simp] theorem State.setFreq_tableValid (c : Symbol) (v : Freq) : (s.setFreq c v).tableValid = s.tableValid := rfl
@[simp] theorem State.setFreq_busy (c : Symbol) (v : Freq) : (s.setFreq c v).busy = s.busy := rfl
@[simp] theorem State.setFreq_cmdr (c : Symbol) (v : Freq) : (s.setFreq c v).cmdr = s.cmdr := rfl
@[simp] theorem State.setFreq_phase (c : Symbol) (v : Freq) : (s.setFreq c v).phase = s.phase := rfl
@[simp] theorem State.setFreq_err (c : Symbol) (v : Freq) : (s.setFreq c v).err = s.err := rfl
@[simp] theorem State.setFreq_errinfo (c : Symbol) (v : Freq) : (s.setFreq c v).errinfo = s.errinfo := rfl
@[simp] theorem State.setFreq_warn (c : Symbol) (v : Freq) : (s.setFreq c v).warn = s.warn := rfl
@[simp] theorem State.setFreq_nonascii (c : Symbol) (v : Freq) : (s.setFreq c v).nonascii = s.nonascii := rfl
@[simp] theorem State.setFreq_inBytes (c : Symbol) (v : Freq) : (s.setFreq c v).inBytes = s.inBytes := rfl
@[simp] theorem State.setFreq_outBytes (c : Symbol) (v : Freq) : (s.setFreq c v).outBytes = s.outBytes := rfl
@[simp] theorem State.setFreq_inq (c : Symbol) (v : Freq) : (s.setFreq c v).inq = s.inq := rfl
@[simp] theorem State.setFreq_outq (c : Symbol) (v : Freq) : (s.setFreq c v).outq = s.outq := rfl
@[simp] theorem State.setFreq_acc (c : Symbol) (v : Freq) : (s.setFreq c v).acc = s.acc := rfl
@[simp] theorem State.setFreq_wcnt (c : Symbol) (v : Freq) : (s.setFreq c v).wcnt = s.wcnt := rfl
@[simp] theorem State.setFreq_rbyte (c : Symbol) (v : Freq) : (s.setFreq c v).rbyte = s.rbyte := rfl
@[simp] theorem State.setFreq_rcnt (c : Symbol) (v : Freq) : (s.setFreq c v).rcnt = s.rcnt := rfl
@[simp] theorem State.setFreq_cur (c : Symbol) (v : Freq) : (s.setFreq c v).cur = s.cur := rfl
@[simp] theorem State.setFreq_pst (c : Symbol) (v : Freq) : (s.setFreq c v).pst = s.pst := rfl
@[simp] theorem State.setFreq_pidx (c : Symbol) (v : Freq) : (s.setFreq c v).pidx = s.pidx := rfl
@[simp] theorem State.setFreq_pbuf (c : Symbol) (v : Freq) : (s.setFreq c v).pbuf = s.pbuf := rfl
@[simp] theorem State.setFreq_host (c : Symbol) (v : Freq) : (s.setFreq c v).host = s.host := rfl
@[simp] theorem State.setFreq_sched (c : Symbol) (v : Freq) : (s.setFreq c v).sched = s.sched := rfl
@[simp] theorem State.setFreq_resps (c : Symbol) (v : Freq) : (s.setFreq c v).resps = s.resps := rfl

@[simp] theorem State.setCode_freq (c : Symbol) (v : Code) : (s.setCode c v).freq = s.freq := rfl
@[simp] theorem State.setCode_heap (c : Symbol) (v : Code) : (s.setCode c v).heap = s.heap := rfl
@[simp] theorem State.setCode_hseq (c : Symbol) (v : Code) : (s.setCode c v).hseq = s.hseq := rfl
@[simp] theorem State.setCode_arena (c : Symbol) (v : Code) : (s.setCode c v).arena = s.arena := rfl
@[simp] theorem State.setCode_root (c : Symbol) (v : Code) : (s.setCode c v).root = s.root := rfl
@[simp] theorem State.setCode_ct (c : Symbol) (v : Code) : (s.setCode c v).ct = s.ct.set c.val v := rfl
@[simp] theorem State.setCode_treeValid (c : Symbol) (v : Code) : (s.setCode c v).treeValid = s.treeValid := rfl
@[simp] theorem State.setCode_tableValid (c : Symbol) (v : Code) : (s.setCode c v).tableValid = s.tableValid := rfl
@[simp] theorem State.setCode_busy (c : Symbol) (v : Code) : (s.setCode c v).busy = s.busy := rfl
@[simp] theorem State.setCode_cmdr (c : Symbol) (v : Code) : (s.setCode c v).cmdr = s.cmdr := rfl
@[simp] theorem State.setCode_phase (c : Symbol) (v : Code) : (s.setCode c v).phase = s.phase := rfl
@[simp] theorem State.setCode_err (c : Symbol) (v : Code) : (s.setCode c v).err = s.err := rfl
@[simp] theorem State.setCode_errinfo (c : Symbol) (v : Code) : (s.setCode c v).errinfo = s.errinfo := rfl
@[simp] theorem State.setCode_warn (c : Symbol) (v : Code) : (s.setCode c v).warn = s.warn := rfl
@[simp] theorem State.setCode_nonascii (c : Symbol) (v : Code) : (s.setCode c v).nonascii = s.nonascii := rfl
@[simp] theorem State.setCode_inBytes (c : Symbol) (v : Code) : (s.setCode c v).inBytes = s.inBytes := rfl
@[simp] theorem State.setCode_outBytes (c : Symbol) (v : Code) : (s.setCode c v).outBytes = s.outBytes := rfl
@[simp] theorem State.setCode_inq (c : Symbol) (v : Code) : (s.setCode c v).inq = s.inq := rfl
@[simp] theorem State.setCode_outq (c : Symbol) (v : Code) : (s.setCode c v).outq = s.outq := rfl
@[simp] theorem State.setCode_acc (c : Symbol) (v : Code) : (s.setCode c v).acc = s.acc := rfl
@[simp] theorem State.setCode_wcnt (c : Symbol) (v : Code) : (s.setCode c v).wcnt = s.wcnt := rfl
@[simp] theorem State.setCode_rbyte (c : Symbol) (v : Code) : (s.setCode c v).rbyte = s.rbyte := rfl
@[simp] theorem State.setCode_rcnt (c : Symbol) (v : Code) : (s.setCode c v).rcnt = s.rcnt := rfl
@[simp] theorem State.setCode_cur (c : Symbol) (v : Code) : (s.setCode c v).cur = s.cur := rfl
@[simp] theorem State.setCode_pst (c : Symbol) (v : Code) : (s.setCode c v).pst = s.pst := rfl
@[simp] theorem State.setCode_pidx (c : Symbol) (v : Code) : (s.setCode c v).pidx = s.pidx := rfl
@[simp] theorem State.setCode_pbuf (c : Symbol) (v : Code) : (s.setCode c v).pbuf = s.pbuf := rfl
@[simp] theorem State.setCode_host (c : Symbol) (v : Code) : (s.setCode c v).host = s.host := rfl
@[simp] theorem State.setCode_sched (c : Symbol) (v : Code) : (s.setCode c v).sched = s.sched := rfl
@[simp] theorem State.setCode_resps (c : Symbol) (v : Code) : (s.setCode c v).resps = s.resps := rfl

@[simp] theorem State.setNode_freq (n : NodeIdx) (v : Node) : (s.setNode n v).freq = s.freq := rfl
@[simp] theorem State.setNode_heap (n : NodeIdx) (v : Node) : (s.setNode n v).heap = s.heap := rfl
@[simp] theorem State.setNode_hseq (n : NodeIdx) (v : Node) : (s.setNode n v).hseq = s.hseq := rfl
@[simp] theorem State.setNode_arena (n : NodeIdx) (v : Node) : (s.setNode n v).arena = s.arena.set n.toNat v := rfl
@[simp] theorem State.setNode_root (n : NodeIdx) (v : Node) : (s.setNode n v).root = s.root := rfl
@[simp] theorem State.setNode_ct (n : NodeIdx) (v : Node) : (s.setNode n v).ct = s.ct := rfl
@[simp] theorem State.setNode_treeValid (n : NodeIdx) (v : Node) : (s.setNode n v).treeValid = s.treeValid := rfl
@[simp] theorem State.setNode_tableValid (n : NodeIdx) (v : Node) : (s.setNode n v).tableValid = s.tableValid := rfl
@[simp] theorem State.setNode_busy (n : NodeIdx) (v : Node) : (s.setNode n v).busy = s.busy := rfl
@[simp] theorem State.setNode_cmdr (n : NodeIdx) (v : Node) : (s.setNode n v).cmdr = s.cmdr := rfl
@[simp] theorem State.setNode_phase (n : NodeIdx) (v : Node) : (s.setNode n v).phase = s.phase := rfl
@[simp] theorem State.setNode_err (n : NodeIdx) (v : Node) : (s.setNode n v).err = s.err := rfl
@[simp] theorem State.setNode_errinfo (n : NodeIdx) (v : Node) : (s.setNode n v).errinfo = s.errinfo := rfl
@[simp] theorem State.setNode_warn (n : NodeIdx) (v : Node) : (s.setNode n v).warn = s.warn := rfl
@[simp] theorem State.setNode_nonascii (n : NodeIdx) (v : Node) : (s.setNode n v).nonascii = s.nonascii := rfl
@[simp] theorem State.setNode_inBytes (n : NodeIdx) (v : Node) : (s.setNode n v).inBytes = s.inBytes := rfl
@[simp] theorem State.setNode_outBytes (n : NodeIdx) (v : Node) : (s.setNode n v).outBytes = s.outBytes := rfl
@[simp] theorem State.setNode_inq (n : NodeIdx) (v : Node) : (s.setNode n v).inq = s.inq := rfl
@[simp] theorem State.setNode_outq (n : NodeIdx) (v : Node) : (s.setNode n v).outq = s.outq := rfl
@[simp] theorem State.setNode_acc (n : NodeIdx) (v : Node) : (s.setNode n v).acc = s.acc := rfl
@[simp] theorem State.setNode_wcnt (n : NodeIdx) (v : Node) : (s.setNode n v).wcnt = s.wcnt := rfl
@[simp] theorem State.setNode_rbyte (n : NodeIdx) (v : Node) : (s.setNode n v).rbyte = s.rbyte := rfl
@[simp] theorem State.setNode_rcnt (n : NodeIdx) (v : Node) : (s.setNode n v).rcnt = s.rcnt := rfl
@[simp] theorem State.setNode_cur (n : NodeIdx) (v : Node) : (s.setNode n v).cur = s.cur := rfl
@[simp] theorem State.setNode_pst (n : NodeIdx) (v : Node) : (s.setNode n v).pst = s.pst := rfl
@[simp] theorem State.setNode_pidx (n : NodeIdx) (v : Node) : (s.setNode n v).pidx = s.pidx := rfl
@[simp] theorem State.setNode_pbuf (n : NodeIdx) (v : Node) : (s.setNode n v).pbuf = s.pbuf := rfl
@[simp] theorem State.setNode_host (n : NodeIdx) (v : Node) : (s.setNode n v).host = s.host := rfl
@[simp] theorem State.setNode_sched (n : NodeIdx) (v : Node) : (s.setNode n v).sched = s.sched := rfl
@[simp] theorem State.setNode_resps (n : NodeIdx) (v : Node) : (s.setNode n v).resps = s.resps := rfl

@[simp] theorem State.emit_freq (bs : List Byte) : (s.emit bs).freq = s.freq := rfl
@[simp] theorem State.emit_heap (bs : List Byte) : (s.emit bs).heap = s.heap := rfl
@[simp] theorem State.emit_hseq (bs : List Byte) : (s.emit bs).hseq = s.hseq := rfl
@[simp] theorem State.emit_arena (bs : List Byte) : (s.emit bs).arena = s.arena := rfl
@[simp] theorem State.emit_root (bs : List Byte) : (s.emit bs).root = s.root := rfl
@[simp] theorem State.emit_ct (bs : List Byte) : (s.emit bs).ct = s.ct := rfl
@[simp] theorem State.emit_treeValid (bs : List Byte) : (s.emit bs).treeValid = s.treeValid := rfl
@[simp] theorem State.emit_tableValid (bs : List Byte) : (s.emit bs).tableValid = s.tableValid := rfl
@[simp] theorem State.emit_busy (bs : List Byte) : (s.emit bs).busy = s.busy := rfl
@[simp] theorem State.emit_cmdr (bs : List Byte) : (s.emit bs).cmdr = s.cmdr := rfl
@[simp] theorem State.emit_phase (bs : List Byte) : (s.emit bs).phase = s.phase := rfl
@[simp] theorem State.emit_err (bs : List Byte) : (s.emit bs).err = s.err := rfl
@[simp] theorem State.emit_errinfo (bs : List Byte) : (s.emit bs).errinfo = s.errinfo := rfl
@[simp] theorem State.emit_warn (bs : List Byte) : (s.emit bs).warn = s.warn := rfl
@[simp] theorem State.emit_nonascii (bs : List Byte) : (s.emit bs).nonascii = s.nonascii := rfl
@[simp] theorem State.emit_inBytes (bs : List Byte) : (s.emit bs).inBytes = s.inBytes := rfl
@[simp] theorem State.emit_outBytes (bs : List Byte) : (s.emit bs).outBytes = s.outBytes := rfl
@[simp] theorem State.emit_inq (bs : List Byte) : (s.emit bs).inq = s.inq := rfl
@[simp] theorem State.emit_outq (bs : List Byte) : (s.emit bs).outq = s.outq ++ bs := rfl
@[simp] theorem State.emit_acc (bs : List Byte) : (s.emit bs).acc = s.acc := rfl
@[simp] theorem State.emit_wcnt (bs : List Byte) : (s.emit bs).wcnt = s.wcnt := rfl
@[simp] theorem State.emit_rbyte (bs : List Byte) : (s.emit bs).rbyte = s.rbyte := rfl
@[simp] theorem State.emit_rcnt (bs : List Byte) : (s.emit bs).rcnt = s.rcnt := rfl
@[simp] theorem State.emit_cur (bs : List Byte) : (s.emit bs).cur = s.cur := rfl
@[simp] theorem State.emit_pst (bs : List Byte) : (s.emit bs).pst = s.pst := rfl
@[simp] theorem State.emit_pidx (bs : List Byte) : (s.emit bs).pidx = s.pidx := rfl
@[simp] theorem State.emit_pbuf (bs : List Byte) : (s.emit bs).pbuf = s.pbuf := rfl
@[simp] theorem State.emit_host (bs : List Byte) : (s.emit bs).host = s.host := rfl
@[simp] theorem State.emit_sched (bs : List Byte) : (s.emit bs).sched = s.sched := rfl
@[simp] theorem State.emit_resps (bs : List Byte) : (s.emit bs).resps = s.resps := rfl

@[simp] theorem State.popIn_freq : (s.popIn).freq = s.freq := rfl
@[simp] theorem State.popIn_heap : (s.popIn).heap = s.heap := rfl
@[simp] theorem State.popIn_hseq : (s.popIn).hseq = s.hseq := rfl
@[simp] theorem State.popIn_arena : (s.popIn).arena = s.arena := rfl
@[simp] theorem State.popIn_root : (s.popIn).root = s.root := rfl
@[simp] theorem State.popIn_ct : (s.popIn).ct = s.ct := rfl
@[simp] theorem State.popIn_treeValid : (s.popIn).treeValid = s.treeValid := rfl
@[simp] theorem State.popIn_tableValid : (s.popIn).tableValid = s.tableValid := rfl
@[simp] theorem State.popIn_busy : (s.popIn).busy = s.busy := rfl
@[simp] theorem State.popIn_cmdr : (s.popIn).cmdr = s.cmdr := rfl
@[simp] theorem State.popIn_phase : (s.popIn).phase = s.phase := rfl
@[simp] theorem State.popIn_err : (s.popIn).err = s.err := rfl
@[simp] theorem State.popIn_errinfo : (s.popIn).errinfo = s.errinfo := rfl
@[simp] theorem State.popIn_warn : (s.popIn).warn = s.warn := rfl
@[simp] theorem State.popIn_nonascii : (s.popIn).nonascii = s.nonascii := rfl
@[simp] theorem State.popIn_inBytes : (s.popIn).inBytes = s.inBytes := rfl
@[simp] theorem State.popIn_outBytes : (s.popIn).outBytes = s.outBytes := rfl
@[simp] theorem State.popIn_inq : (s.popIn).inq = s.inq.tail := rfl
@[simp] theorem State.popIn_outq : (s.popIn).outq = s.outq := rfl
@[simp] theorem State.popIn_acc : (s.popIn).acc = s.acc := rfl
@[simp] theorem State.popIn_wcnt : (s.popIn).wcnt = s.wcnt := rfl
@[simp] theorem State.popIn_rbyte : (s.popIn).rbyte = s.rbyte := rfl
@[simp] theorem State.popIn_rcnt : (s.popIn).rcnt = s.rcnt := rfl
@[simp] theorem State.popIn_cur : (s.popIn).cur = s.cur := rfl
@[simp] theorem State.popIn_pst : (s.popIn).pst = s.pst := rfl
@[simp] theorem State.popIn_pidx : (s.popIn).pidx = s.pidx := rfl
@[simp] theorem State.popIn_pbuf : (s.popIn).pbuf = s.pbuf := rfl
@[simp] theorem State.popIn_host : (s.popIn).host = s.host := rfl
@[simp] theorem State.popIn_sched : (s.popIn).sched = s.sched := rfl
@[simp] theorem State.popIn_resps : (s.popIn).resps = s.resps := rfl

@[simp] theorem State.setTreeValid_freq (v : Bool) : (s.setTreeValid v).freq = s.freq := rfl
@[simp] theorem State.setTreeValid_heap (v : Bool) : (s.setTreeValid v).heap = s.heap := rfl
@[simp] theorem State.setTreeValid_hseq (v : Bool) : (s.setTreeValid v).hseq = s.hseq := rfl
@[simp] theorem State.setTreeValid_arena (v : Bool) : (s.setTreeValid v).arena = s.arena := rfl
@[simp] theorem State.setTreeValid_root (v : Bool) : (s.setTreeValid v).root = s.root := rfl
@[simp] theorem State.setTreeValid_ct (v : Bool) : (s.setTreeValid v).ct = s.ct := rfl
@[simp] theorem State.setTreeValid_treeValid (v : Bool) : (s.setTreeValid v).treeValid = v := rfl
@[simp] theorem State.setTreeValid_tableValid (v : Bool) : (s.setTreeValid v).tableValid = s.tableValid := rfl
@[simp] theorem State.setTreeValid_busy (v : Bool) : (s.setTreeValid v).busy = s.busy := rfl
@[simp] theorem State.setTreeValid_cmdr (v : Bool) : (s.setTreeValid v).cmdr = s.cmdr := rfl
@[simp] theorem State.setTreeValid_phase (v : Bool) : (s.setTreeValid v).phase = s.phase := rfl
@[simp] theorem State.setTreeValid_err (v : Bool) : (s.setTreeValid v).err = s.err := rfl
@[simp] theorem State.setTreeValid_errinfo (v : Bool) : (s.setTreeValid v).errinfo = s.errinfo := rfl
@[simp] theorem State.setTreeValid_warn (v : Bool) : (s.setTreeValid v).warn = s.warn := rfl
@[simp] theorem State.setTreeValid_nonascii (v : Bool) : (s.setTreeValid v).nonascii = s.nonascii := rfl
@[simp] theorem State.setTreeValid_inBytes (v : Bool) : (s.setTreeValid v).inBytes = s.inBytes := rfl
@[simp] theorem State.setTreeValid_outBytes (v : Bool) : (s.setTreeValid v).outBytes = s.outBytes := rfl
@[simp] theorem State.setTreeValid_inq (v : Bool) : (s.setTreeValid v).inq = s.inq := rfl
@[simp] theorem State.setTreeValid_outq (v : Bool) : (s.setTreeValid v).outq = s.outq := rfl
@[simp] theorem State.setTreeValid_acc (v : Bool) : (s.setTreeValid v).acc = s.acc := rfl
@[simp] theorem State.setTreeValid_wcnt (v : Bool) : (s.setTreeValid v).wcnt = s.wcnt := rfl
@[simp] theorem State.setTreeValid_rbyte (v : Bool) : (s.setTreeValid v).rbyte = s.rbyte := rfl
@[simp] theorem State.setTreeValid_rcnt (v : Bool) : (s.setTreeValid v).rcnt = s.rcnt := rfl
@[simp] theorem State.setTreeValid_cur (v : Bool) : (s.setTreeValid v).cur = s.cur := rfl
@[simp] theorem State.setTreeValid_pst (v : Bool) : (s.setTreeValid v).pst = s.pst := rfl
@[simp] theorem State.setTreeValid_pidx (v : Bool) : (s.setTreeValid v).pidx = s.pidx := rfl
@[simp] theorem State.setTreeValid_pbuf (v : Bool) : (s.setTreeValid v).pbuf = s.pbuf := rfl
@[simp] theorem State.setTreeValid_host (v : Bool) : (s.setTreeValid v).host = s.host := rfl
@[simp] theorem State.setTreeValid_sched (v : Bool) : (s.setTreeValid v).sched = s.sched := rfl
@[simp] theorem State.setTreeValid_resps (v : Bool) : (s.setTreeValid v).resps = s.resps := rfl

@[simp] theorem State.setTableValid_freq (v : Bool) : (s.setTableValid v).freq = s.freq := rfl
@[simp] theorem State.setTableValid_heap (v : Bool) : (s.setTableValid v).heap = s.heap := rfl
@[simp] theorem State.setTableValid_hseq (v : Bool) : (s.setTableValid v).hseq = s.hseq := rfl
@[simp] theorem State.setTableValid_arena (v : Bool) : (s.setTableValid v).arena = s.arena := rfl
@[simp] theorem State.setTableValid_root (v : Bool) : (s.setTableValid v).root = s.root := rfl
@[simp] theorem State.setTableValid_ct (v : Bool) : (s.setTableValid v).ct = s.ct := rfl
@[simp] theorem State.setTableValid_treeValid (v : Bool) : (s.setTableValid v).treeValid = s.treeValid := rfl
@[simp] theorem State.setTableValid_tableValid (v : Bool) : (s.setTableValid v).tableValid = v := rfl
@[simp] theorem State.setTableValid_busy (v : Bool) : (s.setTableValid v).busy = s.busy := rfl
@[simp] theorem State.setTableValid_cmdr (v : Bool) : (s.setTableValid v).cmdr = s.cmdr := rfl
@[simp] theorem State.setTableValid_phase (v : Bool) : (s.setTableValid v).phase = s.phase := rfl
@[simp] theorem State.setTableValid_err (v : Bool) : (s.setTableValid v).err = s.err := rfl
@[simp] theorem State.setTableValid_errinfo (v : Bool) : (s.setTableValid v).errinfo = s.errinfo := rfl
@[simp] theorem State.setTableValid_warn (v : Bool) : (s.setTableValid v).warn = s.warn := rfl
@[simp] theorem State.setTableValid_nonascii (v : Bool) : (s.setTableValid v).nonascii = s.nonascii := rfl
@[simp] theorem State.setTableValid_inBytes (v : Bool) : (s.setTableValid v).inBytes = s.inBytes := rfl
@[simp] theorem State.setTableValid_outBytes (v : Bool) : (s.setTableValid v).outBytes = s.outBytes := rfl
@[simp] theorem State.setTableValid_inq (v : Bool) : (s.setTableValid v).inq = s.inq := rfl
@[simp] theorem State.setTableValid_outq (v : Bool) : (s.setTableValid v).outq = s.outq := rfl
@[simp] theorem State.setTableValid_acc (v : Bool) : (s.setTableValid v).acc = s.acc := rfl
@[simp] theorem State.setTableValid_wcnt (v : Bool) : (s.setTableValid v).wcnt = s.wcnt := rfl
@[simp] theorem State.setTableValid_rbyte (v : Bool) : (s.setTableValid v).rbyte = s.rbyte := rfl
@[simp] theorem State.setTableValid_rcnt (v : Bool) : (s.setTableValid v).rcnt = s.rcnt := rfl
@[simp] theorem State.setTableValid_cur (v : Bool) : (s.setTableValid v).cur = s.cur := rfl
@[simp] theorem State.setTableValid_pst (v : Bool) : (s.setTableValid v).pst = s.pst := rfl
@[simp] theorem State.setTableValid_pidx (v : Bool) : (s.setTableValid v).pidx = s.pidx := rfl
@[simp] theorem State.setTableValid_pbuf (v : Bool) : (s.setTableValid v).pbuf = s.pbuf := rfl
@[simp] theorem State.setTableValid_host (v : Bool) : (s.setTableValid v).host = s.host := rfl
@[simp] theorem State.setTableValid_sched (v : Bool) : (s.setTableValid v).sched = s.sched := rfl
@[simp] theorem State.setTableValid_resps (v : Bool) : (s.setTableValid v).resps = s.resps := rfl

@[simp] theorem State.setBusy_freq (v : Bool) : (s.setBusy v).freq = s.freq := rfl
@[simp] theorem State.setBusy_heap (v : Bool) : (s.setBusy v).heap = s.heap := rfl
@[simp] theorem State.setBusy_hseq (v : Bool) : (s.setBusy v).hseq = s.hseq := rfl
@[simp] theorem State.setBusy_arena (v : Bool) : (s.setBusy v).arena = s.arena := rfl
@[simp] theorem State.setBusy_root (v : Bool) : (s.setBusy v).root = s.root := rfl
@[simp] theorem State.setBusy_ct (v : Bool) : (s.setBusy v).ct = s.ct := rfl
@[simp] theorem State.setBusy_treeValid (v : Bool) : (s.setBusy v).treeValid = s.treeValid := rfl
@[simp] theorem State.setBusy_tableValid (v : Bool) : (s.setBusy v).tableValid = s.tableValid := rfl
@[simp] theorem State.setBusy_busy (v : Bool) : (s.setBusy v).busy = v := rfl
@[simp] theorem State.setBusy_cmdr (v : Bool) : (s.setBusy v).cmdr = s.cmdr := rfl
@[simp] theorem State.setBusy_phase (v : Bool) : (s.setBusy v).phase = s.phase := rfl
@[simp] theorem State.setBusy_err (v : Bool) : (s.setBusy v).err = s.err := rfl
@[simp] theorem State.setBusy_errinfo (v : Bool) : (s.setBusy v).errinfo = s.errinfo := rfl
@[simp] theorem State.setBusy_warn (v : Bool) : (s.setBusy v).warn = s.warn := rfl
@[simp] theorem State.setBusy_nonascii (v : Bool) : (s.setBusy v).nonascii = s.nonascii := rfl
@[simp] theorem State.setBusy_inBytes (v : Bool) : (s.setBusy v).inBytes = s.inBytes := rfl
@[simp] theorem State.setBusy_outBytes (v : Bool) : (s.setBusy v).outBytes = s.outBytes := rfl
@[simp] theorem State.setBusy_inq (v : Bool) : (s.setBusy v).inq = s.inq := rfl
@[simp] theorem State.setBusy_outq (v : Bool) : (s.setBusy v).outq = s.outq := rfl
@[simp] theorem State.setBusy_acc (v : Bool) : (s.setBusy v).acc = s.acc := rfl
@[simp] theorem State.setBusy_wcnt (v : Bool) : (s.setBusy v).wcnt = s.wcnt := rfl
@[simp] theorem State.setBusy_rbyte (v : Bool) : (s.setBusy v).rbyte = s.rbyte := rfl
@[simp] theorem State.setBusy_rcnt (v : Bool) : (s.setBusy v).rcnt = s.rcnt := rfl
@[simp] theorem State.setBusy_cur (v : Bool) : (s.setBusy v).cur = s.cur := rfl
@[simp] theorem State.setBusy_pst (v : Bool) : (s.setBusy v).pst = s.pst := rfl
@[simp] theorem State.setBusy_pidx (v : Bool) : (s.setBusy v).pidx = s.pidx := rfl
@[simp] theorem State.setBusy_pbuf (v : Bool) : (s.setBusy v).pbuf = s.pbuf := rfl
@[simp] theorem State.setBusy_host (v : Bool) : (s.setBusy v).host = s.host := rfl
@[simp] theorem State.setBusy_sched (v : Bool) : (s.setBusy v).sched = s.sched := rfl
@[simp] theorem State.setBusy_resps (v : Bool) : (s.setBusy v).resps = s.resps := rfl

@[simp] theorem State.clearWarning_freq : (s.clearWarning).freq = s.freq := rfl
@[simp] theorem State.clearWarning_heap : (s.clearWarning).heap = s.heap := rfl
@[simp] theorem State.clearWarning_hseq : (s.clearWarning).hseq = s.hseq := rfl
@[simp] theorem State.clearWarning_arena : (s.clearWarning).arena = s.arena := rfl
@[simp] theorem State.clearWarning_root : (s.clearWarning).root = s.root := rfl
@[simp] theorem State.clearWarning_ct : (s.clearWarning).ct = s.ct := rfl
@[simp] theorem State.clearWarning_treeValid : (s.clearWarning).treeValid = s.treeValid := rfl
@[simp] theorem State.clearWarning_tableValid : (s.clearWarning).tableValid = s.tableValid := rfl
@[simp] theorem State.clearWarning_busy : (s.clearWarning).busy = s.busy := rfl
@[simp] theorem State.clearWarning_cmdr : (s.clearWarning).cmdr = s.cmdr := rfl
@[simp] theorem State.clearWarning_phase : (s.clearWarning).phase = s.phase := rfl
@[simp] theorem State.clearWarning_err : (s.clearWarning).err = s.err := rfl
@[simp] theorem State.clearWarning_errinfo : (s.clearWarning).errinfo = s.errinfo := rfl
@[simp] theorem State.clearWarning_warn : (s.clearWarning).warn = false := rfl
@[simp] theorem State.clearWarning_nonascii : (s.clearWarning).nonascii = 0#64 := rfl
@[simp] theorem State.clearWarning_inBytes : (s.clearWarning).inBytes = s.inBytes := rfl
@[simp] theorem State.clearWarning_outBytes : (s.clearWarning).outBytes = s.outBytes := rfl
@[simp] theorem State.clearWarning_inq : (s.clearWarning).inq = s.inq := rfl
@[simp] theorem State.clearWarning_outq : (s.clearWarning).outq = s.outq := rfl
@[simp] theorem State.clearWarning_acc : (s.clearWarning).acc = s.acc := rfl
@[simp] theorem State.clearWarning_wcnt : (s.clearWarning).wcnt = s.wcnt := rfl
@[simp] theorem State.clearWarning_rbyte : (s.clearWarning).rbyte = s.rbyte := rfl
@[simp] theorem State.clearWarning_rcnt : (s.clearWarning).rcnt = s.rcnt := rfl
@[simp] theorem State.clearWarning_cur : (s.clearWarning).cur = s.cur := rfl
@[simp] theorem State.clearWarning_pst : (s.clearWarning).pst = s.pst := rfl
@[simp] theorem State.clearWarning_pidx : (s.clearWarning).pidx = s.pidx := rfl
@[simp] theorem State.clearWarning_pbuf : (s.clearWarning).pbuf = s.pbuf := rfl
@[simp] theorem State.clearWarning_host : (s.clearWarning).host = s.host := rfl
@[simp] theorem State.clearWarning_sched : (s.clearWarning).sched = s.sched := rfl
@[simp] theorem State.clearWarning_resps : (s.clearWarning).resps = s.resps := rfl

@[simp] theorem State.noteNonAscii_freq : (s.noteNonAscii).freq = s.freq := rfl
@[simp] theorem State.noteNonAscii_heap : (s.noteNonAscii).heap = s.heap := rfl
@[simp] theorem State.noteNonAscii_hseq : (s.noteNonAscii).hseq = s.hseq := rfl
@[simp] theorem State.noteNonAscii_arena : (s.noteNonAscii).arena = s.arena := rfl
@[simp] theorem State.noteNonAscii_root : (s.noteNonAscii).root = s.root := rfl
@[simp] theorem State.noteNonAscii_ct : (s.noteNonAscii).ct = s.ct := rfl
@[simp] theorem State.noteNonAscii_treeValid : (s.noteNonAscii).treeValid = s.treeValid := rfl
@[simp] theorem State.noteNonAscii_tableValid : (s.noteNonAscii).tableValid = s.tableValid := rfl
@[simp] theorem State.noteNonAscii_busy : (s.noteNonAscii).busy = s.busy := rfl
@[simp] theorem State.noteNonAscii_cmdr : (s.noteNonAscii).cmdr = s.cmdr := rfl
@[simp] theorem State.noteNonAscii_phase : (s.noteNonAscii).phase = s.phase := rfl
@[simp] theorem State.noteNonAscii_err : (s.noteNonAscii).err = s.err := rfl
@[simp] theorem State.noteNonAscii_errinfo : (s.noteNonAscii).errinfo = s.errinfo := rfl
@[simp] theorem State.noteNonAscii_warn : (s.noteNonAscii).warn = true := rfl
@[simp] theorem State.noteNonAscii_nonascii : (s.noteNonAscii).nonascii = s.nonascii + 1#64 := rfl
@[simp] theorem State.noteNonAscii_inBytes : (s.noteNonAscii).inBytes = s.inBytes := rfl
@[simp] theorem State.noteNonAscii_outBytes : (s.noteNonAscii).outBytes = s.outBytes := rfl
@[simp] theorem State.noteNonAscii_inq : (s.noteNonAscii).inq = s.inq := rfl
@[simp] theorem State.noteNonAscii_outq : (s.noteNonAscii).outq = s.outq := rfl
@[simp] theorem State.noteNonAscii_acc : (s.noteNonAscii).acc = s.acc := rfl
@[simp] theorem State.noteNonAscii_wcnt : (s.noteNonAscii).wcnt = s.wcnt := rfl
@[simp] theorem State.noteNonAscii_rbyte : (s.noteNonAscii).rbyte = s.rbyte := rfl
@[simp] theorem State.noteNonAscii_rcnt : (s.noteNonAscii).rcnt = s.rcnt := rfl
@[simp] theorem State.noteNonAscii_cur : (s.noteNonAscii).cur = s.cur := rfl
@[simp] theorem State.noteNonAscii_pst : (s.noteNonAscii).pst = s.pst := rfl
@[simp] theorem State.noteNonAscii_pidx : (s.noteNonAscii).pidx = s.pidx := rfl
@[simp] theorem State.noteNonAscii_pbuf : (s.noteNonAscii).pbuf = s.pbuf := rfl
@[simp] theorem State.noteNonAscii_host : (s.noteNonAscii).host = s.host := rfl
@[simp] theorem State.noteNonAscii_sched : (s.noteNonAscii).sched = s.sched := rfl
@[simp] theorem State.noteNonAscii_resps : (s.noteNonAscii).resps = s.resps := rfl

@[simp] theorem State.clearWriter_freq : (s.clearWriter).freq = s.freq := rfl
@[simp] theorem State.clearWriter_heap : (s.clearWriter).heap = s.heap := rfl
@[simp] theorem State.clearWriter_hseq : (s.clearWriter).hseq = s.hseq := rfl
@[simp] theorem State.clearWriter_arena : (s.clearWriter).arena = s.arena := rfl
@[simp] theorem State.clearWriter_root : (s.clearWriter).root = s.root := rfl
@[simp] theorem State.clearWriter_ct : (s.clearWriter).ct = s.ct := rfl
@[simp] theorem State.clearWriter_treeValid : (s.clearWriter).treeValid = s.treeValid := rfl
@[simp] theorem State.clearWriter_tableValid : (s.clearWriter).tableValid = s.tableValid := rfl
@[simp] theorem State.clearWriter_busy : (s.clearWriter).busy = s.busy := rfl
@[simp] theorem State.clearWriter_cmdr : (s.clearWriter).cmdr = s.cmdr := rfl
@[simp] theorem State.clearWriter_phase : (s.clearWriter).phase = s.phase := rfl
@[simp] theorem State.clearWriter_err : (s.clearWriter).err = s.err := rfl
@[simp] theorem State.clearWriter_errinfo : (s.clearWriter).errinfo = s.errinfo := rfl
@[simp] theorem State.clearWriter_warn : (s.clearWriter).warn = s.warn := rfl
@[simp] theorem State.clearWriter_nonascii : (s.clearWriter).nonascii = s.nonascii := rfl
@[simp] theorem State.clearWriter_inBytes : (s.clearWriter).inBytes = s.inBytes := rfl
@[simp] theorem State.clearWriter_outBytes : (s.clearWriter).outBytes = s.outBytes := rfl
@[simp] theorem State.clearWriter_inq : (s.clearWriter).inq = s.inq := rfl
@[simp] theorem State.clearWriter_outq : (s.clearWriter).outq = s.outq := rfl
@[simp] theorem State.clearWriter_acc : (s.clearWriter).acc = 0#8 := rfl
@[simp] theorem State.clearWriter_wcnt : (s.clearWriter).wcnt = 0 := rfl
@[simp] theorem State.clearWriter_rbyte : (s.clearWriter).rbyte = s.rbyte := rfl
@[simp] theorem State.clearWriter_rcnt : (s.clearWriter).rcnt = s.rcnt := rfl
@[simp] theorem State.clearWriter_cur : (s.clearWriter).cur = s.cur := rfl
@[simp] theorem State.clearWriter_pst : (s.clearWriter).pst = s.pst := rfl
@[simp] theorem State.clearWriter_pidx : (s.clearWriter).pidx = s.pidx := rfl
@[simp] theorem State.clearWriter_pbuf : (s.clearWriter).pbuf = s.pbuf := rfl
@[simp] theorem State.clearWriter_host : (s.clearWriter).host = s.host := rfl
@[simp] theorem State.clearWriter_sched : (s.clearWriter).sched = s.sched := rfl
@[simp] theorem State.clearWriter_resps : (s.clearWriter).resps = s.resps := rfl

@[simp] theorem takeFault_freq (e : ErrCode) (info : Word) : (takeFault e info s).freq = s.freq := rfl
@[simp] theorem takeFault_heap (e : ErrCode) (info : Word) : (takeFault e info s).heap = s.heap := rfl
@[simp] theorem takeFault_hseq (e : ErrCode) (info : Word) : (takeFault e info s).hseq = s.hseq := rfl
@[simp] theorem takeFault_arena (e : ErrCode) (info : Word) : (takeFault e info s).arena = s.arena := rfl
@[simp] theorem takeFault_root (e : ErrCode) (info : Word) : (takeFault e info s).root = s.root := rfl
@[simp] theorem takeFault_ct (e : ErrCode) (info : Word) : (takeFault e info s).ct = s.ct := rfl
@[simp] theorem takeFault_treeValid (e : ErrCode) (info : Word) : (takeFault e info s).treeValid = s.treeValid := rfl
@[simp] theorem takeFault_tableValid (e : ErrCode) (info : Word) : (takeFault e info s).tableValid = s.tableValid := rfl
@[simp] theorem takeFault_busy (e : ErrCode) (info : Word) : (takeFault e info s).busy = false := rfl
@[simp] theorem takeFault_cmdr (e : ErrCode) (info : Word) : (takeFault e info s).cmdr = s.cmdr := rfl
@[simp] theorem takeFault_phase (e : ErrCode) (info : Word) : (takeFault e info s).phase = s.phase := rfl
@[simp] theorem takeFault_err (e : ErrCode) (info : Word) : (takeFault e info s).err = e.code := rfl
@[simp] theorem takeFault_errinfo (e : ErrCode) (info : Word) : (takeFault e info s).errinfo = info := rfl
@[simp] theorem takeFault_warn (e : ErrCode) (info : Word) : (takeFault e info s).warn = s.warn := rfl
@[simp] theorem takeFault_nonascii (e : ErrCode) (info : Word) : (takeFault e info s).nonascii = s.nonascii := rfl
@[simp] theorem takeFault_inBytes (e : ErrCode) (info : Word) : (takeFault e info s).inBytes = s.inBytes := rfl
@[simp] theorem takeFault_outBytes (e : ErrCode) (info : Word) : (takeFault e info s).outBytes = s.outBytes := rfl
@[simp] theorem takeFault_inq (e : ErrCode) (info : Word) : (takeFault e info s).inq = s.inq := rfl
@[simp] theorem takeFault_outq (e : ErrCode) (info : Word) : (takeFault e info s).outq = s.outq := rfl
@[simp] theorem takeFault_acc (e : ErrCode) (info : Word) : (takeFault e info s).acc = s.acc := rfl
@[simp] theorem takeFault_wcnt (e : ErrCode) (info : Word) : (takeFault e info s).wcnt = s.wcnt := rfl
@[simp] theorem takeFault_rbyte (e : ErrCode) (info : Word) : (takeFault e info s).rbyte = s.rbyte := rfl
@[simp] theorem takeFault_rcnt (e : ErrCode) (info : Word) : (takeFault e info s).rcnt = s.rcnt := rfl
@[simp] theorem takeFault_cur (e : ErrCode) (info : Word) : (takeFault e info s).cur = s.cur := rfl
@[simp] theorem takeFault_pst (e : ErrCode) (info : Word) : (takeFault e info s).pst = s.pst := rfl
@[simp] theorem takeFault_pidx (e : ErrCode) (info : Word) : (takeFault e info s).pidx = s.pidx := rfl
@[simp] theorem takeFault_pbuf (e : ErrCode) (info : Word) : (takeFault e info s).pbuf = s.pbuf := rfl
@[simp] theorem takeFault_host (e : ErrCode) (info : Word) : (takeFault e info s).host = s.host := rfl
@[simp] theorem takeFault_sched (e : ErrCode) (info : Word) : (takeFault e info s).sched = s.sched := rfl
@[simp] theorem takeFault_resps (e : ErrCode) (info : Word) : (takeFault e info s).resps = s.resps := rfl

@[simp] theorem acknowledgeFault_freq : (acknowledgeFault s).freq = s.freq := rfl
@[simp] theorem acknowledgeFault_heap : (acknowledgeFault s).heap = s.heap := rfl
@[simp] theorem acknowledgeFault_hseq : (acknowledgeFault s).hseq = s.hseq := rfl
@[simp] theorem acknowledgeFault_arena : (acknowledgeFault s).arena = s.arena := rfl
@[simp] theorem acknowledgeFault_root : (acknowledgeFault s).root = s.root := rfl
@[simp] theorem acknowledgeFault_ct : (acknowledgeFault s).ct = s.ct := rfl
@[simp] theorem acknowledgeFault_treeValid : (acknowledgeFault s).treeValid = s.treeValid := rfl
@[simp] theorem acknowledgeFault_tableValid : (acknowledgeFault s).tableValid = s.tableValid := rfl
@[simp] theorem acknowledgeFault_busy : (acknowledgeFault s).busy = s.busy := rfl
@[simp] theorem acknowledgeFault_cmdr : (acknowledgeFault s).cmdr = s.cmdr := rfl
@[simp] theorem acknowledgeFault_phase : (acknowledgeFault s).phase = s.phase := rfl
@[simp] theorem acknowledgeFault_err : (acknowledgeFault s).err = 0#8 := rfl
@[simp] theorem acknowledgeFault_errinfo : (acknowledgeFault s).errinfo = 0#32 := rfl
@[simp] theorem acknowledgeFault_warn : (acknowledgeFault s).warn = false := rfl
@[simp] theorem acknowledgeFault_nonascii : (acknowledgeFault s).nonascii = s.nonascii := rfl
@[simp] theorem acknowledgeFault_inBytes : (acknowledgeFault s).inBytes = s.inBytes := rfl
@[simp] theorem acknowledgeFault_outBytes : (acknowledgeFault s).outBytes = s.outBytes := rfl
@[simp] theorem acknowledgeFault_inq : (acknowledgeFault s).inq = [] := rfl
@[simp] theorem acknowledgeFault_outq : (acknowledgeFault s).outq = s.outq := rfl
@[simp] theorem acknowledgeFault_acc : (acknowledgeFault s).acc = s.acc := rfl
@[simp] theorem acknowledgeFault_wcnt : (acknowledgeFault s).wcnt = s.wcnt := rfl
@[simp] theorem acknowledgeFault_rbyte : (acknowledgeFault s).rbyte = s.rbyte := rfl
@[simp] theorem acknowledgeFault_rcnt : (acknowledgeFault s).rcnt = s.rcnt := rfl
@[simp] theorem acknowledgeFault_cur : (acknowledgeFault s).cur = s.cur := rfl
@[simp] theorem acknowledgeFault_pst : (acknowledgeFault s).pst = s.pst := rfl
@[simp] theorem acknowledgeFault_pidx : (acknowledgeFault s).pidx = s.pidx := rfl
@[simp] theorem acknowledgeFault_pbuf : (acknowledgeFault s).pbuf = s.pbuf := rfl
@[simp] theorem acknowledgeFault_host : (acknowledgeFault s).host = s.host := rfl
@[simp] theorem acknowledgeFault_sched : (acknowledgeFault s).sched = s.sched := rfl
@[simp] theorem acknowledgeFault_resps : (acknowledgeFault s).resps = s.resps := rfl

@[simp] theorem loadCommand_freq (w : Word) : (loadCommand w s).freq = s.freq := rfl
@[simp] theorem loadCommand_heap (w : Word) : (loadCommand w s).heap = s.heap := rfl
@[simp] theorem loadCommand_hseq (w : Word) : (loadCommand w s).hseq = s.hseq := rfl
@[simp] theorem loadCommand_arena (w : Word) : (loadCommand w s).arena = s.arena := rfl
@[simp] theorem loadCommand_root (w : Word) : (loadCommand w s).root = s.root := rfl
@[simp] theorem loadCommand_ct (w : Word) : (loadCommand w s).ct = s.ct := rfl
@[simp] theorem loadCommand_treeValid (w : Word) : (loadCommand w s).treeValid = s.treeValid := rfl
@[simp] theorem loadCommand_tableValid (w : Word) : (loadCommand w s).tableValid = s.tableValid := rfl
@[simp] theorem loadCommand_busy (w : Word) : (loadCommand w s).busy = true := rfl
@[simp] theorem loadCommand_cmdr (w : Word) : (loadCommand w s).cmdr = w := rfl
@[simp] theorem loadCommand_phase (w : Word) : (loadCommand w s).phase = .start := rfl
@[simp] theorem loadCommand_err (w : Word) : (loadCommand w s).err = s.err := rfl
@[simp] theorem loadCommand_errinfo (w : Word) : (loadCommand w s).errinfo = s.errinfo := rfl
@[simp] theorem loadCommand_warn (w : Word) : (loadCommand w s).warn = s.warn := rfl
@[simp] theorem loadCommand_nonascii (w : Word) : (loadCommand w s).nonascii = s.nonascii := rfl
@[simp] theorem loadCommand_inBytes (w : Word) : (loadCommand w s).inBytes = s.inBytes := rfl
@[simp] theorem loadCommand_outBytes (w : Word) : (loadCommand w s).outBytes = s.outBytes := rfl
@[simp] theorem loadCommand_inq (w : Word) : (loadCommand w s).inq = s.inq := rfl
@[simp] theorem loadCommand_outq (w : Word) : (loadCommand w s).outq = s.outq := rfl
@[simp] theorem loadCommand_acc (w : Word) : (loadCommand w s).acc = s.acc := rfl
@[simp] theorem loadCommand_wcnt (w : Word) : (loadCommand w s).wcnt = s.wcnt := rfl
@[simp] theorem loadCommand_rbyte (w : Word) : (loadCommand w s).rbyte = s.rbyte := rfl
@[simp] theorem loadCommand_rcnt (w : Word) : (loadCommand w s).rcnt = s.rcnt := rfl
@[simp] theorem loadCommand_cur (w : Word) : (loadCommand w s).cur = s.cur := rfl
@[simp] theorem loadCommand_pst (w : Word) : (loadCommand w s).pst = s.pst := rfl
@[simp] theorem loadCommand_pidx (w : Word) : (loadCommand w s).pidx = s.pidx := rfl
@[simp] theorem loadCommand_pbuf (w : Word) : (loadCommand w s).pbuf = s.pbuf := rfl
@[simp] theorem loadCommand_host (w : Word) : (loadCommand w s).host = s.host := rfl
@[simp] theorem loadCommand_sched (w : Word) : (loadCommand w s).sched = s.sched := rfl
@[simp] theorem loadCommand_resps (w : Word) : (loadCommand w s).resps = s.resps := rfl

@[simp] theorem resetEngine_freq : (resetEngine s).freq = State.reset.freq := rfl
@[simp] theorem resetEngine_heap : (resetEngine s).heap = State.reset.heap := rfl
@[simp] theorem resetEngine_hseq : (resetEngine s).hseq = State.reset.hseq := rfl
@[simp] theorem resetEngine_arena : (resetEngine s).arena = State.reset.arena := rfl
@[simp] theorem resetEngine_root : (resetEngine s).root = State.reset.root := rfl
@[simp] theorem resetEngine_ct : (resetEngine s).ct = State.reset.ct := rfl
@[simp] theorem resetEngine_treeValid : (resetEngine s).treeValid = State.reset.treeValid := rfl
@[simp] theorem resetEngine_tableValid : (resetEngine s).tableValid = State.reset.tableValid := rfl
@[simp] theorem resetEngine_busy : (resetEngine s).busy = State.reset.busy := rfl
@[simp] theorem resetEngine_cmdr : (resetEngine s).cmdr = State.reset.cmdr := rfl
@[simp] theorem resetEngine_phase : (resetEngine s).phase = State.reset.phase := rfl
@[simp] theorem resetEngine_err : (resetEngine s).err = State.reset.err := rfl
@[simp] theorem resetEngine_errinfo : (resetEngine s).errinfo = State.reset.errinfo := rfl
@[simp] theorem resetEngine_warn : (resetEngine s).warn = State.reset.warn := rfl
@[simp] theorem resetEngine_nonascii : (resetEngine s).nonascii = State.reset.nonascii := rfl
@[simp] theorem resetEngine_inBytes : (resetEngine s).inBytes = State.reset.inBytes := rfl
@[simp] theorem resetEngine_outBytes : (resetEngine s).outBytes = State.reset.outBytes := rfl
@[simp] theorem resetEngine_inq : (resetEngine s).inq = State.reset.inq := rfl
@[simp] theorem resetEngine_outq : (resetEngine s).outq = State.reset.outq := rfl
@[simp] theorem resetEngine_acc : (resetEngine s).acc = State.reset.acc := rfl
@[simp] theorem resetEngine_wcnt : (resetEngine s).wcnt = State.reset.wcnt := rfl
@[simp] theorem resetEngine_rbyte : (resetEngine s).rbyte = State.reset.rbyte := rfl
@[simp] theorem resetEngine_rcnt : (resetEngine s).rcnt = State.reset.rcnt := rfl
@[simp] theorem resetEngine_cur : (resetEngine s).cur = State.reset.cur := rfl
@[simp] theorem resetEngine_pst : (resetEngine s).pst = State.reset.pst := rfl
@[simp] theorem resetEngine_pidx : (resetEngine s).pidx = State.reset.pidx := rfl
@[simp] theorem resetEngine_pbuf : (resetEngine s).pbuf = State.reset.pbuf := rfl
@[simp] theorem resetEngine_host : (resetEngine s).host = s.host := rfl
@[simp] theorem resetEngine_sched : (resetEngine s).sched = s.sched := rfl
@[simp] theorem resetEngine_resps : (resetEngine s).resps = s.resps := rfl

theorem freqAt_setFreq (c d : Symbol) (v : Freq) :
    (s.setFreq c v).freqAt d = if c = d then v else s.freqAt d := by
  simp [State.freqAt, State.setFreq, Vector.getElem_set, Fin.ext_iff]

theorem codeAt_setCode (c d : Symbol) (v : Code) :
    (s.setCode c v).codeAt d = if c = d then v else s.codeAt d := by
  simp [State.codeAt, State.setCode, Vector.getElem_set, Fin.ext_iff]

@[simp] theorem zeroFreq_getElem (c : Symbol) : zeroFreq[c.val] = 0#32 := by simp [zeroFreq]

@[simp] theorem emptyTable_getElem (c : Symbol) : emptyTable[c.val] = [] := by simp [emptyTable]

@[simp] theorem symbolOf_symByte (c : Symbol) : symbolOf (symByte c) = some c := by
  have h : (symByte c).toNat = c.val := by simp [symByte]; omega
  simp [symbolOf, h]

theorem symbolOf_eq_none {b : Byte} : symbolOf b = none ↔ 128 ≤ b.toNat := by
  simp [symbolOf]

end

end Sys2Proof.Machine
end

