-- ==== Sys2Proof/Laws/Ops.lean ====
section
/-! SUPPORT. What each shared operation can do, said once: an equation or a case list per operation, for later proofs to
cite instead of unfolding it. -/

namespace Sys2Proof.Machine

section Endings

variable {α β : Type}

@[simp] theorem Res.andThen_ok (a : α) (s : State) (k : α → State → Res β) : (Res.ok a s).andThen k = k a s := rfl

@[simp] theorem Res.andThen_raised (e : ErrCode) (w : Word) (s : State) (k : α → State → Res β) :
    (Res.raised e w s).andThen k = .raised e w s := rfl

@[simp] theorem Res.andThen_stuck (f : Fault) (k : α → State → Res β) : (Res.stuck f).andThen k = .stuck f := rfl

theorem Res.andThen_eq_ok {r : Res α} {k : α → State → Res β} {b : β} {u : State} :
    r.andThen k = .ok b u ↔ ∃ a t, r = .ok a t ∧ k a t = .ok b u := by
  cases r <;> simp

theorem Res.andThen_eq_raised {r : Res α} {k : α → State → Res β} {e : ErrCode} {w : Word} {u : State} :
    r.andThen k = .raised e w u ↔ r = .raised e w u ∨ ∃ a t, r = .ok a t ∧ k a t = .raised e w u := by
  cases r <;> simp

theorem Res.andThen_eq_stuck {r : Res α} {k : α → State → Res β} {f : Fault} :
    r.andThen k = .stuck f ↔ r = .stuck f ∨ ∃ a t, r = .ok a t ∧ k a t = .stuck f := by
  cases r <;> simp

theorem Res.andThen_assoc {γ : Type} (r : Res α) (k : α → State → Res β) (l : β → State → Res γ) :
    (r.andThen k).andThen l = r.andThen fun a s => (k a s).andThen l := by
  cases r <;> rfl

end Endings

section Loops

variable {α : Type} {body : α → State → Res Unit} {P : State → Prop}

@[simp] theorem forEach_nil (s : State) : forEach body [] s = .ok () s := rfl

@[simp] theorem forEach_cons (x : α) (xs : List α) (s : State) :
    forEach body (x :: xs) s = (body x s).andThen fun _ t => forEach body xs t := rfl

theorem forEach_append (xs ys : List α) (s : State) :
    forEach body (xs ++ ys) s = (forEach body xs s).andThen fun _ t => forEach body ys t := by
  induction xs generalizing s with
  | nil => rfl
  | cons x xs ih => simp [ih, Res.andThen_assoc]

/-- What every iteration keeps, the loop keeps. -/
theorem forEach_keeps (h : ∀ x s t, P s → body x s = .ok () t → P t) {xs : List α} {s t : State} (hs : P s)
    (ht : forEach body xs s = .ok () t) : P t := by
  induction xs generalizing s with
  | nil => cases ht; exact hs
  | cons x xs ih =>
    obtain ⟨_, u, hu, hr⟩ := Res.andThen_eq_ok.1 ht
    exact ih (h x s u hs hu) hr

/-- A loop whose every iteration goes on from a state with `P`, and keeps `P`, goes on to a state with `P`. -/
theorem forEach_completes (h : ∀ x s, P s → ∃ t, body x s = .ok () t ∧ P t) (xs : List α) {s : State} (hs : P s) :
    ∃ t, forEach body xs s = .ok () t ∧ P t := by
  induction xs generalizing s with
  | nil => exact ⟨s, rfl, hs⟩
  | cons x xs ih =>
    obtain ⟨u, hu, hp⟩ := h x s hs
    obtain ⟨t, ht, hq⟩ := ih hp
    exact ⟨t, by simp [hu, ht], hq⟩

@[simp] theorem repeatTimes_zero (b : State → Res Unit) (s : State) : repeatTimes b 0 s = .ok () s := rfl

@[simp] theorem repeatTimes_succ (b : State → Res Unit) (n : Nat) (s : State) :
    repeatTimes b (n + 1) s = (b s).andThen fun _ t => repeatTimes b n t := rfl

theorem repeatTimes_keeps {b : State → Res Unit} (h : ∀ s t, P s → b s = .ok () t → P t) {n : Nat} {s t : State} (hs : P s)
    (ht : repeatTimes b n s = .ok () t) : P t := by
  induction n generalizing s with
  | zero => cases ht; exact hs
  | succ n ih =>
    obtain ⟨_, u, hu, hr⟩ := Res.andThen_eq_ok.1 ht
    exact ih (h s u hs hu) hr

end Loops

section Steps

variable {close : State → State} {rule endRule startRule : State → Res Unit} {byteRule : Byte → State → Res Unit}

theorem stepEnd_eq_next {r : Res Unit} {t : State} :
    stepEnd close r = .next t ↔
      (∃ u, r = .ok () u ∧ t = close u) ∨ ∃ e w u, r = .raised e w u ∧ t = takeFault e w u := by
  cases r <;> simp [stepEnd, eq_comm]

theorem stepEnd_eq_fault {r : Res Unit} {f : Fault} : stepEnd close r = .fault f ↔ r = .stuck f := by
  cases r <;> simp [stepEnd]

theorem stepEnd_not_refused {r : Res Unit} {q : Refusal} : stepEnd close r ≠ .refused q := by
  cases r <;> simp [stepEnd]

/-- A non-stream command's step ends with its rule done and `BUSY` = 0, or with the rule's fault taken. -/
theorem wholeStep_eq_next {s t : State} :
    wholeStep rule s = .next t ↔
      (∃ u, rule s = .ok () u ∧ t = u.setBusy false) ∨ ∃ e w u, rule s = .raised e w u ∧ t = takeFault e w u :=
  stepEnd_eq_next

theorem wholeStep_ok {s u : State} (h : rule s = .ok () u) : wholeStep rule s = .next (u.setBusy false) := by
  simp [wholeStep, h, stepEnd]

theorem wholeStep_raised {s u : State} {e : ErrCode} {w : Word} (h : rule s = .raised e w u) :
    wholeStep rule s = .next (takeFault e w u) := by
  simp [wholeStep, h, stepEnd]

theorem streamStep_start {s : State} (h : s.phase = .start) :
    streamStep startRule byteRule endRule s = stepEnd (fun t => { t with phase := .run }) (startRule s) := by
  simp [streamStep, h]

theorem streamStep_byte {s : State} {b : Byte} {q : List Item} (h : s.phase = .run) (hq : s.inq = .byte b :: q) :
    streamStep startRule byteRule endRule s = stepEnd id (byteRule b { s with inq := q }) := by
  simp [streamStep, h, hq, State.popIn]

theorem streamStep_eos {s : State} {q : List Item} (h : s.phase = .run) (hq : s.inq = .eos :: q) :
    streamStep startRule byteRule endRule s = stepEnd (fun t => t.setBusy false) (endRule { s with inq := q }) := by
  simp [streamStep, h, hq, State.popIn]

theorem streamStep_held {s : State} (h : s.phase = .run) (hq : s.inq = []) :
    streamStep startRule byteRule endRule s = .next s := by
  simp [streamStep, h, hq]

/-- Everything a stream command's step can do. -/
theorem streamStep_cases {s t : State} (h : streamStep startRule byteRule endRule s = .next t) :
    (s.phase = .start ∧ ∃ u, startRule s = .ok () u ∧ t = { u with phase := .run }) ∨
    (s.phase = .run ∧ s.inq = [] ∧ t = s) ∨
    (∃ b q, s.phase = .run ∧ s.inq = .byte b :: q ∧ byteRule b { s with inq := q } = .ok () t) ∨
    (∃ q u, s.phase = .run ∧ s.inq = .eos :: q ∧ endRule { s with inq := q } = .ok () u ∧ t = u.setBusy false) ∨
    (∃ r e w u, (r = startRule s ∨ (∃ b q, s.inq = .byte b :: q ∧ r = byteRule b { s with inq := q }) ∨
        (∃ q, s.inq = .eos :: q ∧ r = endRule { s with inq := q })) ∧ r = .raised e w u ∧ t = takeFault e w u) := by
  obtain hp | hp : s.phase = .start ∨ s.phase = .run := by cases s.phase <;> simp
  ·
    rw [streamStep_start hp] at h
    obtain ⟨u, hu, rfl⟩ | ⟨e, w, u, hu, rfl⟩ := stepEnd_eq_next.1 h
    · exact .inl ⟨hp, u, hu, rfl⟩
    · exact .inr (.inr (.inr (.inr ⟨_, e, w, u, .inl rfl, hu, rfl⟩)))
  · cases hq : s.inq with
    | nil =>
      rw [streamStep_held hp hq] at h
      cases h
      exact .inr (.inl ⟨hp, rfl, rfl⟩)
    | cons it q =>
      cases it with
      | byte b =>
        rw [streamStep_byte hp hq] at h
        obtain ⟨u, hu, rfl⟩ | ⟨e, w, u, hu, rfl⟩ := stepEnd_eq_next.1 h
        · exact .inr (.inr (.inl ⟨b, q, hp, rfl, hu⟩))
        · exact .inr (.inr (.inr (.inr ⟨_, e, w, u, .inr (.inl ⟨b, q, rfl, rfl⟩), hu, rfl⟩)))
      | eos =>
        rw [streamStep_eos hp hq] at h
        obtain ⟨u, hu, rfl⟩ | ⟨e, w, u, hu, rfl⟩ := stepEnd_eq_next.1 h
        · exact .inr (.inr (.inr (.inl ⟨q, u, hp, rfl, hu, rfl⟩)))
        · exact .inr (.inr (.inr (.inr ⟨_, e, w, u, .inr (.inr ⟨q, rfl, rfl⟩), hu, rfl⟩)))

end Steps

section Arena

theorem alloc_eq_ok {nd : Node} {s t : State} {n : NodeIdx} :
    alloc nd s = .ok n t ↔
      s.nn ≠ Config.nodeCap ∧ n = BitVec.ofNat 14 s.nn ∧ t = { s with arena := s.arena ++ [nd] } := by
  unfold alloc
  split
  · simp_all
  · exact ⟨by rintro ⟨⟩; exact ⟨by assumption, rfl, rfl⟩, by rintro ⟨_, rfl, rfl⟩; rfl⟩

theorem alloc_eq_raised {nd : Node} {s t : State} {e : ErrCode} {w : Word} :
    alloc nd s = .raised e w t ↔ s.nn = Config.nodeCap ∧ e = .nodeFull ∧ w = 0#32 ∧ t = s := by
  unfold alloc
  split
  · exact ⟨by rintro ⟨⟩; exact ⟨by assumption, rfl, rfl, rfl⟩, by rintro ⟨_, rfl, rfl, rfl⟩; rfl⟩
  · simp_all

theorem alloc_not_stuck {nd : Node} {s : State} {f : Fault} : alloc nd s ≠ .stuck f := by
  unfold alloc
  split <;> simp

/-- A node index below `NODE_CAP` is not cut by its 14 bits (R7: `NODE_CAP` < 2^14). -/
theorem nodeIdx_toNat {n : Nat} (h : n ≤ Config.nodeCap) : (BitVec.ofNat 14 n).toNat = n := by
  have : Config.nodeCap = 16257 := rfl
  simp only [BitVec.toNat_ofNat]
  omega

theorem readNode_eq_ok {n : NodeIdx} {s t : State} {nd : Node} :
    readNode n s = .ok nd t ↔ nodeAt s.arena n = some nd ∧ t = s := by
  unfold readNode
  cases h : nodeAt s.arena n with
  | none => simp
  | some m => exact ⟨by rintro ⟨⟩; exact ⟨rfl, rfl⟩, by rintro ⟨⟨⟩, rfl⟩; rfl⟩

theorem readNode_not_raised {n : NodeIdx} {s t : State} {e : ErrCode} {w : Word} : readNode n s ≠ .raised e w t := by
  unfold readNode
  split <;> simp

theorem readNode_eq_stuck {n : NodeIdx} {s : State} {f : Fault} :
    readNode n s = .stuck f ↔ nodeAt s.arena n = none ∧ f = .nodeIndexOutOfRange n := by
  unfold readNode
  cases nodeAt s.arena n <;> simp [eq_comm]

theorem nodeAt_isSome {arena : List Node} {n : NodeIdx} : (∃ nd, nodeAt arena n = some nd) ↔ n.toNat < arena.length := by
  simp only [nodeAt, ← Option.isSome_iff_exists]
  simp

end Arena

section Scheduler

theorem insert_eq_ok {r : NodeIdx} {p : Prio} {s t : State} :
    insert r p s = .ok () t ↔
      s.hn ≠ Config.heapCap ∧ t = { s with heap := heapInsert ⟨p, s.hseq, r⟩ s.heap, hseq := s.hseq + 1#8 } := by
  unfold insert
  split
  · simp_all
  · exact ⟨by rintro ⟨⟩; exact ⟨by assumption, rfl⟩, by rintro ⟨_, rfl⟩; rfl⟩

theorem insert_not_stuck {r : NodeIdx} {p : Prio} {s : State} {f : Fault} : insert r p s ≠ .stuck f := by
  unfold insert
  split <;> simp

theorem removeMin_eq_ok {s t : State} {e : Entry} :
    removeMin s = .ok e t ↔ ∃ rest, s.heap = e :: rest ∧ t = { s with heap := heapPop rest } := by
  unfold removeMin
  cases h : s.heap with
  | nil => simp
  | cons d rest => exact ⟨by rintro ⟨⟩; exact ⟨rest, rfl, rfl⟩, by rintro ⟨_, ⟨⟩, rfl⟩; rfl⟩

theorem removeMin_eq_raised {s t : State} {e : ErrCode} {w : Word} :
    removeMin s = .raised e w t ↔ s.heap = [] ∧ e = .heapEmpty ∧ w = 0#32 ∧ t = s := by
  unfold removeMin
  cases h : s.heap with
  | nil => exact ⟨by rintro ⟨⟩; exact ⟨rfl, rfl, rfl, rfl⟩, by rintro ⟨_, rfl, rfl, rfl⟩; rfl⟩
  | cons d rest => simp

theorem siftUp_length (fuel i : Nat) (h : List Entry) : (siftUp fuel i h).length = h.length := by
  induction fuel generalizing i h with
  | zero => rfl
  | succ fuel ih =>
    unfold siftUp
    split
    · rfl
    · split
      · split
        · simp [ih]
        · rfl
      · rfl

theorem siftDown_length (fuel i : Nat) (h : List Entry) : (siftDown fuel i h).length = h.length := by
  induction fuel generalizing i h with
  | zero => rfl
  | succ fuel ih =>
    unfold siftDown
    simp only
    split
    · rfl
    · split
      · simp [ih]
      · rfl

/-- An insert adds one entry. -/
theorem heapInsert_length (e : Entry) (h : List Entry) : (heapInsert e h).length = h.length + 1 := by
  simp [heapInsert, siftUp_length]

/-- A removal takes one entry away. -/
theorem heapPop_length (rest : List Entry) : (heapPop rest).length = rest.length := by
  unfold heapPop
  split
  · simp_all
  · rename_i e he
    have hne : rest ≠ [] := by rintro rfl; simp at he
    have := List.length_pos_of_ne_nil hne
    simp [siftDown_length]
    omega

end Scheduler

section Streams

theorem putByte_eq_ok {b : Byte} {s t : State} :
    putByte b s = .ok () t ↔
      s.outBytes ≠ BitVec.allOnes 64 ∧ t = { s with outq := s.outq ++ [b], outBytes := s.outBytes + 1#64 } := by
  unfold putByte
  split
  · simp_all
  · exact ⟨by rintro ⟨⟩; exact ⟨by assumption, rfl⟩, by rintro ⟨_, rfl⟩; rfl⟩

theorem putByte_eq_raised {b : Byte} {s t : State} {e : ErrCode} {w : Word} :
    putByte b s = .raised e w t ↔ s.outBytes = BitVec.allOnes 64 ∧ e = .countOvf ∧ w = 0#32 ∧ t = s := by
  unfold putByte
  split
  · exact ⟨by rintro ⟨⟩; exact ⟨by assumption, rfl, rfl, rfl⟩, by rintro ⟨_, rfl, rfl, rfl⟩; rfl⟩
  · simp_all

/-- A bit written either waits in the accumulator, or ends a byte that is put out. -/
theorem writeBit_cases {bit : Bool} {s t : State} (h : writeBit bit s = .ok () t) :
    let acc' := if bit then setBitFromTop s.acc s.wcnt else s.acc
    (s.wcnt ≠ 7 ∧ t = { s with acc := acc', wcnt := s.wcnt + 1 }) ∨
    (s.wcnt = 7 ∧ s.outBytes ≠ BitVec.allOnes 64 ∧
      t = { s with outq := s.outq ++ [acc'], outBytes := s.outBytes + 1#64, acc := 0#8, wcnt := 0 }) := by
  intro acc'
  unfold writeBit at h
  simp only at h
  split at h
  · obtain ⟨_, u, hu, hr⟩ := Res.andThen_eq_ok.1 h
    obtain ⟨hn, rfl⟩ := putByte_eq_ok.1 hu
    cases hr
    exact .inr ⟨by assumption, hn, rfl⟩
  · cases h
    exact .inl ⟨by assumption, rfl⟩

theorem flush_cases {s t : State} (h : flush s = .ok () t) :
    (s.wcnt.val = 0 ∧ t = s) ∨
    (0 < s.wcnt.val ∧ s.outBytes ≠ BitVec.allOnes 64 ∧
      t = { s with outq := s.outq ++ [s.acc], outBytes := s.outBytes + 1#64, acc := 0#8, wcnt := 0 }) := by
  unfold flush at h
  split at h
  · obtain ⟨_, u, hu, hr⟩ := Res.andThen_eq_ok.1 h
    obtain ⟨hn, rfl⟩ := putByte_eq_ok.1 hu
    cases hr
    exact .inr ⟨by assumption, hn, rfl⟩
  · cases h
    exact .inl ⟨by omega, rfl⟩

/-- With bits of `RBYTE` left the reader gives the next one. -/
theorem readBit_pending {s : State} (h : s.rcnt ≠ 0) :
    readBit s = .ok (s.rbyte.getLsbD (s.rcnt.val - 1)) { s with rcnt := ⟨s.rcnt.val - 1, by omega⟩ } := by
  simp [readBit, h]

/-- One step of the decoder's walk goes to a child, which is a leaf and is emitted, or is not. -/
theorem bitstep_cases {bit : Bool} {s t : State} (h : bitstep bit s = .ok () t) :
    ∃ nd n nd', nodeAt s.arena s.cur = some nd ∧ nd.child bit = some n ∧ nodeAt s.arena n = some nd' ∧
      ((nd'.isLeaf = true ∧ t = { s with outq := s.outq ++ [nd'.sym], cur := s.root }) ∨
        (nd'.isLeaf = false ∧ t = { s with cur := n })) := by
  obtain ⟨nd, u, hu, h1⟩ := Res.andThen_eq_ok.1 h
  obtain ⟨hnd, rfl⟩ := readNode_eq_ok.1 hu
  cases hn : nd.child bit with
  | none => simp [hn] at h1
  | some n =>
    simp only [hn] at h1
    obtain ⟨nd', v, hv, h2⟩ := Res.andThen_eq_ok.1 h1
    obtain ⟨hnd', rfl⟩ := readNode_eq_ok.1 hv
    refine ⟨nd, n, nd', hnd, hn, hnd', ?_⟩
    cases hl : nd'.isLeaf with
    | true =>
      simp only [hl] at h2
      cases h2
      exact .inl ⟨rfl, rfl⟩
    | false =>
      simp only [hl] at h2
      cases h2
      exact .inr ⟨rfl, rfl⟩

end Streams

section Agents

/-- A step of the reconstructor goes to a child, made first where it is absent. -/
theorem growStep_cases {cur n : NodeIdx} {bit : Bool} {s t : State} (h : growStep cur bit s = .ok n t) :
    ∃ nd, nodeAt s.arena cur = some nd ∧
      ((nd.child bit = some n ∧ t = s) ∨
        (nd.child bit = none ∧ s.nn ≠ Config.nodeCap ∧ n = BitVec.ofNat 14 s.nn ∧
          t = { s with arena := (s.arena ++ [freshNode]).set cur.toNat (nd.setChild bit n) })) := by
  obtain ⟨nd, u, hu, h1⟩ := Res.andThen_eq_ok.1 h
  obtain ⟨hnd, rfl⟩ := readNode_eq_ok.1 hu
  refine ⟨nd, hnd, ?_⟩
  cases hn : nd.child bit with
  | some m =>
    simp only [hn] at h1
    cases h1
    exact .inl ⟨rfl, rfl⟩
  | none =>
    simp only [hn] at h1
    obtain ⟨m, v, hv, h2⟩ := Res.andThen_eq_ok.1 h1
    obtain ⟨hc, hm, rfl⟩ := alloc_eq_ok.1 hv
    cases h2
    exact .inr ⟨rfl, hc, hm, rfl⟩

theorem engineStep_idle {s : State} (h : s.engineEnabled = false) : engineStep s = .next s := by
  simp [engineStep, h]

theorem engineStep_runs {s : State} {i : Instr} (h : s.engineEnabled = true) (hi : decode s.cmdr = .ok i) :
    engineStep s = exec i s := by
  simp [engineStep, h, hi]

theorem engineStep_illegal {s : State} {w : IllegalWord} (h : s.engineEnabled = true) (hi : decode s.cmdr = .error w) :
    engineStep s = .next (takeFault .illegalCmd s.cmdr s) := by
  simp [engineStep, h, hi]

/-- Everything an engine step can do. -/
theorem engineStep_cases {s t : State} (h : engineStep s = .next t) :
    (s.engineEnabled = false ∧ t = s) ∨
    (∃ i, s.engineEnabled = true ∧ decode s.cmdr = .ok i ∧ exec i s = .next t) ∨
    (∃ w, s.engineEnabled = true ∧ decode s.cmdr = .error w ∧ t = takeFault .illegalCmd s.cmdr s) := by
  cases he : s.engineEnabled with
  | false =>
    rw [engineStep_idle he] at h
    cases h
    exact .inl ⟨rfl, rfl⟩
  | true =>
    cases hd : decode s.cmdr with
    | ok i => exact .inr (.inl ⟨i, rfl, rfl, by rwa [engineStep_runs he hd] at h⟩)
    | error w =>
      rw [engineStep_illegal he hd] at h
      cases h
      exact .inr (.inr ⟨w, rfl, rfl, rfl⟩)

/-- What a read can leave: the same state, or the state with the head of `OUTQ` gone. -/
theorem memRead_cases {addr : Addr} {size : Nat} {s : State} :
    (memRead addr size s).2 = s ∨ (memRead addr size s).2 = { s with outq := s.outq.tail } := by
  unfold memRead
  split
  · exact .inl rfl
  · rename_i r _
    split
    · cases r <;> simp [readEffect]
    · exact .inl rfl

/-- What a write can leave: the same state, a reset, an accepted command, one more item, or one counter written. -/
theorem memWrite_cases {addr : Addr} {size : Nat} {v : Word} {s : State} :
    let t := (memWrite addr size v s).2
    t = s ∨ (v = 0x00000002#32 ∧ t = resetEngine s) ∨
    (s.busy = false ∧ (s.err = 0#8 ∨ v = 0x00000001#32) ∧ v ≠ 0x00000002#32 ∧ t = loadCommand v s) ∨
    t = { s with inq := s.inq ++ [itemOf v] } ∨ ∃ c, s.busy = false ∧ t = s.setFreq c v := by
  intro t
  unfold t memWrite
  split
  · exact .inl rfl
  · rename_i r hr
    have hb : r.visibleWhileBusy = false → s.busy = false := by
      intro hv
      revert hr
      unfold reach
      split
      · split
        · simp
        · split
          · simp
          · split
            · simp
            · rintro ⟨⟩
              simp_all
      · simp
    cases r <;> simp [writeReg]
    · unfold writeCmd
      split
      · simp_all
      · split
        · simp
        · split
          · simp
          · simp_all [State.faulted]
            tauto
    · exact .inr (.inr (.inr (.inr ⟨hb rfl, _, rfl⟩)))

/-- Everything a host turn can do: nothing with no line left; else one access's response is delivered. -/
theorem hostStep_cases {s : State} :
    (s.host = [] ∧ hostStep s = s) ∨
    (∃ addr size rest, s.host = .read addr size :: rest ∧
      hostStep s = deliver (memRead addr size { s with host := rest })) ∨
    (∃ addr size v rest, s.host = .write addr size v :: rest ∧
      hostStep s = deliver (memWrite addr size v { s with host := rest })) ∨
    (∃ addr l, (s.host.head? = some .wait ∨ s.host.head? = some .drain) ∧
      hostStep s = deliver ((memRead addr 4 s).1, { (memRead addr 4 s).2 with host := l })) := by
  unfold hostStep
  split
  · simp_all
  · simp_all
  · simp_all
  · dsimp only
    split
    · exact .inr (.inr (.inr ⟨0x00004#20, (memRead 0x00004#20 4 s).2.host, .inl (by simp_all), rfl⟩))
    · exact .inr (.inr (.inr ⟨0x00004#20, _, .inl (by simp_all), rfl⟩))
  · dsimp only
    split
    · exact .inr (.inr (.inr ⟨0x00044#20, (memRead 0x00044#20 4 s).2.host, .inr (by simp_all), rfl⟩))
    · exact .inr (.inr (.inr ⟨0x00044#20, _, .inr (by simp_all), rfl⟩))

/-- Everything an event can be. -/
theorem step_cases {s t : State} (h : step s = .next t) :
    (s.sched = [] ∧ s.engineEnabled = true ∧ engineStep s = .next t) ∨
    (s.sched = [] ∧ s.engineEnabled = false ∧ t = hostStep s) ∨
    ∃ rest, (s.sched = .host :: rest ∧ t = hostStep { s with sched := rest }) ∨
      (s.sched = .engine :: rest ∧ engineStep { s with sched := rest } = .next t) ∨
      (s.sched = .reset :: rest ∧ t = resetEngine { s with sched := rest }) := by
  unfold step at h
  split at h
  · split at h
    · exact .inl ⟨by assumption, by assumption, h⟩
    · cases h
      exact .inr (.inl ⟨by assumption, by simp_all, rfl⟩)
  · cases h
    exact .inr (.inr ⟨_, .inl ⟨by assumption, rfl⟩⟩)
  · exact .inr (.inr ⟨_, .inr (.inl ⟨by assumption, h⟩)⟩)
  · cases h
    exact .inr (.inr ⟨_, .inr (.inr ⟨by assumption, rfl⟩)⟩)

end Agents

end Sys2Proof.Machine
end

