-- ==== Sys2Proof/Laws/PerInstr.lean ====
section
/-! SUPPORT. Statements about every command as syntax, one lemma per constructor. `LegalWord`: the command's word (R101) is
well formed, its `OP` field alone is set (R100), and the opcode map gives the command back. -/

namespace Sys2Proof.Laws.LegalWord

def Statement (i : Instr) : Prop :=
  wellFormedWord (encode i) = true ∧ (encode i).toNat < 256 ∧ opcodeMap (opField (encode i)).toNat = some i

theorem nop : Statement .nop := ⟨rfl, by decide, rfl⟩
theorem clrerr : Statement .clrerr := ⟨rfl, by decide, rfl⟩
theorem srst : Statement .srst := ⟨rfl, by decide, rfl⟩
theorem fclr : Statement .fclr := ⟨rfl, by decide, rfl⟩
theorem analyze : Statement .analyze := ⟨rfl, by decide, rfl⟩
theorem hseed : Statement .hseed := ⟨rfl, by decide, rfl⟩
theorem hmerge : Statement .hmerge := ⟨rfl, by decide, rfl⟩
theorem htake : Statement .htake := ⟨rfl, by decide, rfl⟩
theorem build : Statement .build := ⟨rfl, by decide, rfl⟩
theorem gen : Statement .gen := ⟨rfl, by decide, rfl⟩
theorem recon : Statement .recon := ⟨rfl, by decide, rfl⟩
theorem hidump : Statement .hidump := ⟨rfl, by decide, rfl⟩
theorem hiload : Statement .hiload := ⟨rfl, by decide, rfl⟩
theorem compress : Statement .compress := ⟨rfl, by decide, rfl⟩
theorem decompress : Statement .decompress := ⟨rfl, by decide, rfl⟩

end Sys2Proof.Laws.LegalWord
end

