-- ==== Sys2Proof/Laws/Run.lean ====
section
/-! SUPPORT. What several events do together: the host's `run` unrolled at its front, so that a claim about a run is proved
event by event from the lemmas about `step`. -/

namespace Sys2Proof.Machine

@[simp] theorem run_zero (s : State) : Sys2Proof.core.run 0 s = .next s := rfl

theorem run_succ {n : Nat} {s t : State} (h : step s = .next t) : Sys2Proof.core.run (n + 1) s = Sys2Proof.core.run n t := by
  have hc : Sys2Proof.core.step s = .next t := h
  simp only [Host.Core.run, hc]

theorem run_add {m n : Nat} {s t : State} (h : Sys2Proof.core.run m s = .next t) :
    Sys2Proof.core.run (m + n) s = Sys2Proof.core.run n t := by
  induction m generalizing s with
  | zero => cases h; rw [Nat.zero_add]
  | succ m ih =>
    cases hs : Sys2Proof.core.step s with
    | next u =>
      have hm : Sys2Proof.core.run m u = .next t := by rw [← h]; exact (run_succ hs).symm
      rw [Nat.add_right_comm, run_succ (show step s = .next u from hs)]
      exact ih hm
    | fault f => simp [Host.Core.run, hs] at h
    | refused r => simp [Host.Core.run, hs] at h

end Sys2Proof.Machine
end

