-- ==== Sys2Proof/Tests/Slice0.lean ====
section
/-! SUPPORT. The model's own tests. Expected values come from the rules' encodings and from spec/95_test_vectors.md, whose
vector each test names. The last part shows, for every obligation with hypotheses, a state and operands that meet them. -/

namespace Sys2Proof.Machine

-- One theorem at a time: many at once need more threads than the memory limit of a check allows.
set_option Elab.async false

/-! ### Helpers -/

/-- The state an outcome goes on with. -/
def after (o : Host.Outcome State Fault Refusal) : Option State :=
  match o with
  | .next s => some s
  | .fault _ => none
  | .refused _ => none

/-- A stream command between its steps, with items waiting. -/
def running (i : Instr) (items : List Item) : State :=
  { State.reset with busy := true, cmdr := encode i, phase := .run, inq := items }

/-- A command just accepted. -/
def accepted (i : Instr) (items : List Item) : State :=
  { State.reset with busy := true, cmdr := encode i, phase := .start, inq := items }

/-- The tree of V-R1. -/
def treeR1 : List Node :=
  [⟨0xFF#8, some 2#14, some 1#14, 0#39⟩, ⟨65#8, none, none, 0#39⟩, ⟨0xFF#8, none, some 3#14, 0#39⟩, ⟨66#8, none, none, 0#39⟩]

/-- The pair of V-R1: the table 65: 1, 66: 01 and the tree `RECON` makes of it. -/
def pairR1 : State :=
  { State.reset with
    ct := (emptyTable.set 65 [true]).set 66 [false, true]
    arena := treeR1
    treeValid := true
    tableValid := true }

/-- A node nothing points to. -/
def spareNode : Node := ⟨0xFF#8, none, none, 0#39⟩

/-! ### Encodings (R101, V-E1) -/

theorem test_decode_nop : decode 0b00000000000000000000000000000000#32 = .ok .nop := by decide
theorem test_decode_clrerr : decode 0b00000000000000000000000000000001#32 = .ok .clrerr := by decide
theorem test_decode_srst : decode 0b00000000000000000000000000000010#32 = .ok .srst := by decide
theorem test_decode_fclr : decode 0b00000000000000000000000000010000#32 = .ok .fclr := by decide
theorem test_decode_analyze : decode 0b00000000000000000000000000010001#32 = .ok .analyze := by decide
theorem test_decode_hseed : decode 0b00000000000000000000000000100000#32 = .ok .hseed := by decide
theorem test_decode_hmerge : decode 0b00000000000000000000000000100001#32 = .ok .hmerge := by decide
theorem test_decode_htake : decode 0b00000000000000000000000000100010#32 = .ok .htake := by decide
theorem test_decode_build : decode 0b00000000000000000000000000100011#32 = .ok .build := by decide
theorem test_decode_gen : decode 0b00000000000000000000000000110000#32 = .ok .gen := by decide
theorem test_decode_recon : decode 0b00000000000000000000000000110001#32 = .ok .recon := by decide
theorem test_decode_hidump : decode 0b00000000000000000000000001000000#32 = .ok .hidump := by decide
theorem test_decode_hiload : decode 0b00000000000000000000000001000001#32 = .ok .hiload := by decide
theorem test_decode_compress : decode 0b00000000000000000000000001010000#32 = .ok .compress := by decide
theorem test_decode_decompress : decode 0b00000000000000000000000001010001#32 = .ok .decompress := by decide

/-- V-E1: the illegal words, each refused by its name. -/
theorem test_decode_illegal :
    decode 0x00000003#32 = .error (.unknownOpcode 0x00000003#32) ∧
    decode 0x00000012#32 = .error (.unknownOpcode 0x00000012#32) ∧
    decode 0x00000024#32 = .error (.unknownOpcode 0x00000024#32) ∧
    decode 0x00000032#32 = .error (.unknownOpcode 0x00000032#32) ∧
    decode 0x00000042#32 = .error (.unknownOpcode 0x00000042#32) ∧
    decode 0x00000052#32 = .error (.unknownOpcode 0x00000052#32) ∧
    decode 0x000000FF#32 = .error (.unknownOpcode 0x000000FF#32) ∧
    decode 0x80000000#32 = .error (.zeroFieldSet 0x80000000#32) ∧
    decode 0x00000102#32 = .error (.zeroFieldSet 0x00000102#32) := by decide

/-- The check of `ZERO` refuses a listed opcode under a bit of `ZERO` (V-E1). -/
theorem test_wellFormed_refuses_zero_field : wellFormedWord 0x00000102#32 = false := by decide

/-- The check of `OP` refuses an opcode that is not listed (V-E1). -/
theorem test_wellFormed_refuses_opcode : wellFormedWord 0x00000003#32 = false := by decide

/-- A code of 128 bits does not fit a table entry (R35). -/
theorem test_code_of_128_bits_does_not_fit : Code.fits (List.replicate 128 true) = false := by decide +kernel

/-! ### System commands -/

/-- V-X1: `NOP` changes nothing. -/
theorem test_nop : after (exec .nop { pairR1 with busy := true }) = some pairR1 := by rfl

/-- V-X5: after V-L case W, `CLRERR` gives `STATUS` = 0x00000010 and keeps the table memory. -/
theorem test_clrerr :
    (after (exec .clrerr { State.reset with
        busy := true, err := 1#8, errinfo := 0x378#32, ct := emptyTable.set 2 [true, false],
        inq := [.byte 0x34#8, .byte 0x20#8, .eos] })).map (fun t => (t.status, t.errinfo, t.codeAt 2))
      = some (0x00000010#32, 0#32, [true, false]) := by decide +kernel

/-- V-X6: `SRST`'s word in the middle of a command. -/
theorem test_srst :
    memWrite 0x00000#20 4 0x00000002#32 { pairR1 with busy := true, phase := .run, inq := [.eos], outq := [1#8] }
      = (.ok, State.reset) := by rfl

/-! ### Frequency analyzer -/

/-- V-A5: `FCLR` clears `FREQ` and leaves the warning and its count. -/
theorem test_fclr :
    (after (exec .fclr ({ State.reset with warn := true, nonascii := 1#64 }.setFreq 65 0xFFFFFFFF#32))).map
      (fun t => (t.freqAt 65, t.warn, t.nonascii)) = some (0#32, true, 1#64) := by decide +kernel

/-- V-A2: the byte C8 is reported and not counted. -/
theorem test_analyze_reports :
    (after (exec .analyze (running .analyze [.byte 0xC8#8, .byte 0x42#8]))).map
      (fun t => (t.nonascii, t.warn, t.inq, freqSum t.freq)) = some (1#64, true, [.byte 0x42#8], 0) := by decide +kernel

/-- V-A6: a full counter faults with the symbol and keeps the rest of the stream. -/
theorem test_analyze_overflow :
    (after (exec .analyze ((running .analyze [.byte 0x41#8, .byte 0x42#8, .eos]).setFreq 65 0xFFFFFFFF#32))).map
      (fun t => (t.err, t.errinfo, t.freqAt 65, t.status)) = some (9#8, 0x41#32, 0xFFFFFFFF#32, 0x00000002#32) := by
  decide +kernel

/-! ### Scheduler -/

/-- V-H1: the five inserts, the array after the last. -/
theorem test_scheduler_inserts :
    [(⟨5#39, 0#8, 100#14⟩ : Entry), ⟨3#39, 1#8, 101#14⟩, ⟨8#39, 2#8, 102#14⟩, ⟨3#39, 3#8, 103#14⟩,
        ⟨1#39, 4#8, 104#14⟩].foldl (fun h e => heapInsert e h) []
      = [⟨1#39, 4#8, 104#14⟩, ⟨3#39, 1#8, 101#14⟩, ⟨8#39, 2#8, 102#14⟩, ⟨5#39, 0#8, 100#14⟩, ⟨3#39, 3#8, 103#14⟩] := by
  decide +kernel

/-- V-H1: the first `removeMin` and the second, where the earlier of two equal priorities leaves first. -/
theorem test_scheduler_removals :
    heapPop [⟨3#39, 1#8, 101#14⟩, ⟨8#39, 2#8, 102#14⟩, ⟨5#39, 0#8, 100#14⟩, ⟨3#39, 3#8, 103#14⟩]
      = [⟨3#39, 1#8, 101#14⟩, ⟨3#39, 3#8, 103#14⟩, ⟨8#39, 2#8, 102#14⟩, ⟨5#39, 0#8, 100#14⟩] ∧
    heapPop [⟨3#39, 3#8, 103#14⟩, ⟨8#39, 2#8, 102#14⟩, ⟨5#39, 0#8, 100#14⟩]
      = [⟨3#39, 3#8, 103#14⟩, ⟨5#39, 0#8, 100#14⟩, ⟨8#39, 2#8, 102#14⟩] := by decide +kernel

/-! ### Tree builder -/

/-- V-H2: every counter 5 but `FREQ[0]` = 9. -/
theorem test_hseed :
    (after (exec .hseed { State.reset with freq := (Vector.replicate 128 5#32).set 0 9#32 })).map
      (fun t => (t.hn, t.nn, t.heap.head?)) = some (128, 128, some ⟨5#39, 1#8, 1#14⟩) := by decide +kernel

/-- V-H4, the third merge: of two entries of priority 3 the leaf, inserted earlier, is the left child. -/
theorem test_hmerge :
    (after (exec .hmerge { State.reset with
        heap := [⟨3#39, 124#8, 124#14⟩, ⟨4#39, 123#8, 123#14⟩, ⟨3#39, 129#8, 129#14⟩], hseq := 130#8
        arena := List.replicate 130 spareNode })).map
      (fun t => (t.arena[130]?, peekMinPriority t, t.hn))
      = some (some ⟨0xFF#8, some 124#14, some 129#14, 6#39⟩, 4#39, 2) := by decide +kernel

/-- V-H3: a merge of one tree faults with `HN` in `ERRINFO`. -/
theorem test_hmerge_one_tree :
    (after (exec .hmerge { State.reset with heap := [⟨0#39, 254#8, 254#14⟩] })).map (fun t => (t.err, t.errinfo, t.hn))
      = some (3#8, 1#32, 1) := by decide +kernel

/-- V-B8, V-B1: `HTAKE` takes the root, sets `TREE_VALID` and clears `TABLE_VALID`. -/
theorem test_htake :
    (after (exec .htake { State.reset with heap := [⟨0#39, 254#8, 254#14⟩], tableValid := true })).map
      (fun t => (t.rootWord, t.hn, t.status)) = some (0x800000FE#32, 0, 0x00000014#32) := by decide +kernel

/-- V-X2: after 126 merges `HTAKE` faults with 2. -/
theorem test_htake_two_trees :
    (after (exec .htake { State.reset with heap := [⟨0#39, 1#8, 1#14⟩, ⟨0#39, 2#8, 2#14⟩] })).map (fun t => (t.err, t.errinfo))
      = some (12#8, 2#32) := by decide +kernel

/-! ### Code generator and reconstructor -/

/-- V-R3, V-G1: `GEN` on a tree with a symbol on an internal node loses that symbol's code. -/
theorem test_gen :
    (after (exec .gen { State.reset with
        treeValid := true
        arena := [⟨0xFF#8, some 1#14, none, 0#39⟩, ⟨65#8, none, some 2#14, 0#39⟩, ⟨66#8, none, none, 0#39⟩] })).map
      (fun t => (t.ct, t.tableValid)) = some (emptyTable.set 66 [false, true], true) := by decide +kernel

/-- V-R3: a table that is not prefix-free. -/
theorem test_recon_not_prefix_free :
    (after (exec .recon { State.reset with
        tableValid := true, ct := (emptyTable.set 65 [false]).set 66 [false, true] })).map (fun t => (t.arena, t.rootWord))
      = some ([⟨0xFF#8, some 1#14, none, 0#39⟩, ⟨65#8, none, some 2#14, 0#39⟩, ⟨66#8, none, none, 0#39⟩],
          0x80000000#32) := by decide +kernel

/-- V-R4: of two equal codes the later symbol stays. -/
theorem test_recon_equal_codes :
    (after (exec .recon { State.reset with
        tableValid := true, ct := (emptyTable.set 1 [true, false]).set 2 [true, false] })).map State.arena
      = some [⟨0xFF#8, none, some 1#14, 0#39⟩, ⟨0xFF#8, some 2#14, none, 0#39⟩, ⟨2#8, none, none, 0#39⟩] := by
  decide +kernel

/-! ### Code table image -/

/-- V-I3: the image of the table of V-R1 is 534 bytes; its lines for 65 and 66. -/
theorem test_hidump :
    (after (exec .hidump pairR1)).map (fun t => t.outq.length) = some 534 ∧
    hiLine 65 [true] = [0x36#8, 0x35#8, 0x20#8, 0x31#8, 0x0A#8] ∧
    hiLine 127 [] = [0x31#8, 0x32#8, 0x37#8, 0x20#8, 0x0A#8] := by decide +kernel

/-- V-L2: without a valid table. -/
theorem test_hidump_missing_table : (after (exec .hidump State.reset)).map (fun t => (t.err, t.outq)) = some (13#8, []) := by
  decide +kernel

/-- V-L case N: the digit that takes the index past 127. -/
theorem test_hiload_index :
    (after (exec .hiload { running .hiload [.byte 0x38#8] with pst := .idx, pidx := 12 })).map (fun t => (t.err, t.errinfo))
      = some (7#8, 0x38#32) := by decide +kernel

/-- V-L cases T and U: the 127th bit is taken, the 128th faults with the index. -/
theorem test_hiload_code_length :
    (after (exec .hiload { running .hiload [.byte 0x31#8] with
        pst := .code, pidx := 9, pbuf := List.replicate 126 true })).map (fun t => (t.err, t.pbuf.length)) = some (0#8, 127) ∧
    (after (exec .hiload { running .hiload [.byte 0x31#8] with
        pst := .code, pidx := 9, pbuf := List.replicate 127 true })).map (fun t => (t.err, t.errinfo))
      = some (8#8, 0x900#32) := by decide +kernel

/-! ### Bit stream, compressor, decompressor -/

/-- V-W1. -/
theorem test_pack :
    pack [true, false, true, true, false, false, true, true, true, false] = [0xB3#8, 0x80#8] ∧
    pack [false, false, false, false, false, false, false, true] = [0x01#8] ∧ pack [true] = [0x80#8] ∧ pack [] = [] ∧
    pack (List.replicate 9 true) = [0xFF#8, 0x80#8] := by decide +kernel

/-- V-W3. -/
theorem test_unpack :
    unpack [0xB3#8, 0x80#8] = [true, false, true, true, false, false, true, true, true, false, false, false, false, false,
      false, false] := by decide +kernel

/-- V-C2: the code 1000001 is held, in 0x82, and nothing is emitted yet. -/
theorem test_compress_byte :
    (after (exec .compress { running .compress [.byte 0x41#8, .eos] with
        ct := emptyTable.set 65 [true, false, false, false, false, false, true] })).map
      (fun t => (t.acc, t.wcnt, t.outq, t.inBytes)) = some (0x82#8, 7, [], 1#64) := by decide +kernel

/-- V-W2: three bits held in 0xA0 are flushed in one byte, once. -/
theorem test_compress_flush :
    (after (exec .compress { running .compress [.eos] with acc := 0xA0#8, wcnt := 3 })).map
      (fun t => (t.outq, t.outBytes, t.acc, t.wcnt, t.busy)) = some ([0xA0#8], 1#64, 0#8, 0, false) := by decide +kernel

/-- V-D2: B6 emits 41 42 41 42 41 and leaves `CUR` = 2. -/
theorem test_decompress :
    (after (exec .decompress { pairR1 with busy := true, cmdr := encode .decompress, phase := .run, inq := [.byte 0xB6#8] })).map
      (fun t => (t.outq, t.cur, t.err)) = some ([0x41#8, 0x42#8, 0x41#8, 0x42#8, 0x41#8], 2#14, 0#8) := by decide +kernel

/-- V-D2: B4 emits 41 42 41 42, then at node 2 there is no left child. -/
theorem test_decompress_bad_path :
    (after (exec .decompress { pairR1 with busy := true, cmdr := encode .decompress, phase := .run, inq := [.byte 0xB4#8] })).map
      (fun t => (t.outq, t.err, t.errinfo)) = some ([0x41#8, 0x42#8, 0x41#8, 0x42#8], 6#8, 2#32) := by decide +kernel

/-! ### Register port -/

/-- V-E2: the words of `IN_DATA`. -/
theorem test_in_data :
    itemOf 0x00000041#32 = .byte 0x41#8 ∧ itemOf 0x00000100#32 = .eos ∧ itemOf 0x000001C8#32 = .eos ∧
    itemOf 0xFFFFFE41#32 = .byte 0x41#8 := by decide

/-- V-E2: `pop`. -/
theorem test_out_data :
    (memRead 0x00044#20 4 { State.reset with outq := [0xFF#8, 0x00#8] }).1 = .data 0x800000FF#32 ∧
    (memRead 0x00044#20 4 { State.reset with outq := [0x00#8] }).1 = .data 0x80000000#32 ∧
    (memRead 0x00044#20 4 { State.reset with outq := [0xFF#8, 0x00#8] }).2.outq = [0x00#8] ∧
    (memRead 0x00044#20 4 State.reset).1 = .data 0x00000000#32 := by decide +kernel

/-- V-E3: readings of `STATUS`. -/
theorem test_status :
    pairR1.status = 0x0000001C#32 ∧ { pairR1 with outq := [0#8] }.status = 0x0000003C#32 ∧
    { pairR1 with busy := true }.status = 0x0000001D#32 ∧
    { pairR1 with busy := true, inq := [.eos] }.status = 0x0000000D#32 ∧
    { State.reset with err := 7#8, inq := [.eos] }.status = 0x00000002#32 ∧
    { State.reset with warn := true }.status = 0x00000050#32 := by decide +kernel

/-- V-E4, V-X4: what is at an address. -/
theorem test_addresses :
    regAt 0x00504 0 = some (.freq 65) ∧ regAt 0x005FC 0 = some (.freq 127) ∧ regAt 0x01820 0 = some (.ctLen 65) ∧
    regAt 0x01830 0 = some (.ctBits 65 3) ∧ regAt 0x01834 0 = some (.ctZero 65 0) ∧ regAt 0x01FE0 0 = some (.ctLen 127) ∧
    regAt 0x40FEC 255 = some (.node 254#14 3) ∧ regAt 0x7F80C 16257 = some (.node 16256#14 3) ∧
    regAt 0x00048 0 = none ∧ regAt 0x00600 0 = none ∧ regAt 0x02000 0 = none ∧ regAt 0x40000 0 = none := by decide +kernel

/-- V-B1, V-B3: the host's view of a code, left-aligned in 128 bits. -/
theorem test_code_window :
    codeBitsWord [true, false, false, false, false, false, true] 3 = 0x82000000#32 ∧
    codeBitsWord [true, true, false, false, true] 3 = 0xC8000000#32 ∧
    codeBitsWord (List.replicate 127 true) 0 = 0xFFFFFFFE#32 := by decide +kernel

/-- V-R1: the host words of the nodes. -/
theorem test_node_window :
    pairR1.arena.map (fun nd => (nodeWord nd 0, nodeWord nd 1, nodeWord nd 2, nodeWord nd 3)) =
      [(0x000003FF#32, 0x00010002#32, 0#32, 0#32), (0x00000041#32, 0#32, 0#32, 0#32), (0x000002FF#32, 0x00030000#32, 0#32, 0#32),
       (0x00000042#32, 0#32, 0#32, 0#32)] := by decide +kernel

/-- V-X3, V-X1: what is refused while busy and while a fault is recorded. -/
theorem test_acceptance :
    (memWrite 0x00000#20 4 0x00000001#32 (running .analyze [])).1 = .busErr ∧
    (memRead 0x00400#20 4 (running .analyze [])).1 = .busErr ∧
    (memRead 0x00004#20 4 (running .analyze [])).1 = .data 0x00000011#32 ∧
    (memWrite 0x00000#20 4 0x00000000#32 { State.reset with err := 1#8 }).1 = .busErr ∧
    (memWrite 0x00000#20 4 0x00000001#32 { State.reset with err := 1#8 }).1 = .ok ∧
    (memWrite 0x00504#20 4 7#32 { State.reset with err := 1#8 }).2.freqAt 65 = 7#32 := by decide +kernel

/-- V-X2: the illegal word 3 faults at the first engine step with the word in `ERRINFO`. -/
theorem test_illegal_command :
    (after (step (State.reset.withFetchWord 32 3))).map (fun t => (t.err, t.errinfo, t.busy)) = some (11#8, 3#32, false) := by
  decide +kernel

/-- R112: the file names. -/
theorem test_file_names :
    tableFileName "a.txt" = "a.txt.hi" ∧ compressedFileName "a.txt" = "a.txt.hc" ∧ recoveredFileName "a.txt.hc" = "a.txt" := by
  decide +kernel

/-! ### Witnesses: each obligation's hypotheses are met by a state and operands shown here -/

/-- The pair of V-R1 with a command word, a queue and a fault code in the control registers. -/
def pairIn (busy : Bool) (w : Word) (q : List Item) (e : BitVec 8) : State :=
  { pairR1 with busy := busy, cmdr := w, inq := q, err := e }

/-- Two trees left of a build, V-H3 before the 127th merge. -/
def twoTrees : State :=
  { State.reset with heap := [⟨0#39, 252#8, 252#14⟩, ⟨0#39, 253#8, 253#14⟩], hseq := 254#8, arena := List.replicate 254 spareNode }

/-- A `HILOAD` about to take a byte. -/
def parsing (p : ParserState) (i : Symbol) (buffer : Code) (c : Byte) : State :=
  { running .hiload [.byte c] with pst := p, pidx := i, pbuf := buffer }

theorem pairIn_sched (b : Bool) (w : Word) (q : List Item) (e : BitVec 8) : SchedInv (pairIn b w q e) where
  ordered := fun _ h => absurd h (Nat.not_lt_zero _)
  counts := .inl rfl
  entries := fun _ h => absurd h List.not_mem_nil
  seqs := List.nodup_nil
  sum := by show (0 : Nat) ≤ 2 ^ 39 - 128; decide

/-- A rank of the nodes of V-R1's tree: a child ranks below its parent. -/
def rankR1 (n : Nat) : Nat := [2, 0, 1, 0].getD n 0

theorem treeR1_ranked (n : Nat) (nd : Node) (h : treeR1[n]? = some nd) : ∀ c ∈ nd.children, rankR1 c.toNat < rankR1 n := by
  have all : (treeR1.zipIdx.all fun p => p.1.children.all fun c => rankR1 c.toNat < rankR1 p.2) = true := by decide +kernel
  have one := List.all_eq_true.1 all (nd, n) (List.mem_zipIdx_iff_getElem?.2 h)
  exact fun c hc => of_decide_eq_true (List.all_eq_true.1 one c hc)

theorem treeR1_inRange : ∀ c ∈ childList treeR1, c.toNat < 4 := by
  have all : ((childList treeR1).all fun c => c.toNat < 4) = true := by decide +kernel
  exact fun c hc => of_decide_eq_true (List.all_eq_true.1 all c hc)

theorem pairIn_arena (b : Bool) (w : Word) (q : List Item) (e : BitVec 8) : ArenaInv (pairIn b w q e) where
  cap := by show (4 : Nat) ≤ 16257; decide
  inRange := treeR1_inRange
  oneParent := by show (childList treeR1).Nodup; decide +kernel
  symbolsOnce := by show (treeR1.filterMap fun nd => symbolOf nd.sym).Nodup; decide +kernel
  forest := fun h => absurd rfl h
  tree := fun _ => ⟨rfl, by show (0 : Nat) < 4; decide, by show 0#14 ∉ childList treeR1; decide +kernel,
    rankR1, by show (2 : Nat) ≤ 127; decide, treeR1_ranked⟩

theorem pairIn_table (b : Bool) (w : Word) (q : List Item) (e : BitVec 8) : TableInv (pairIn b w q e) where
  codes := by show ∀ c, (pairR1.codeAt c).length ≤ 127; decide +kernel
  buffer := Nat.zero_le _

/-- A state of the whole invariant, with a tree, a table and a fault or a command in progress. -/
theorem pairIn_inv {b : Bool} {w : Word} {q : List Item} {e : BitVec 8} (he : e.toNat ≤ 13) (hb : b = true → e = 0#8) :
    EngineInv (pairIn b w q e) where
  sched := pairIn_sched b w q e
  arena := pairIn_arena b w q e
  table := pairIn_table b w q e
  control :=
    { running := fun _ h => absurd h (by show ¬ (Phase.start = Phase.run); decide)
      faulted := fun h1 h2 => absurd (hb h1) h2
      code := he
      walk := fun h => absurd h.2.1 (by show ¬ (Phase.start = Phase.run); decide)
      writer := fun h => absurd h.2.1 (by show ¬ (Phase.start = Phase.run); decide) }

theorem pairR1_codes : ∀ c, pairR1.codeAt c ≠ [] → c = 65 ∨ c = 66 := by decide +kernel

theorem pairR1_prefixFree : PrefixFree pairR1.ct := by
  intro a b hab ha
  obtain rfl | rfl := pairR1_codes a ha
  · revert b; decide +kernel
  · revert b; decide +kernel

theorem pairR1_leaf (c : Symbol) (h : pairR1.codeAt c ≠ []) : LeafAt treeR1 0#14 (pairR1.codeAt c) (symByte c) := by
  obtain rfl | rfl := pairR1_codes c h
  · exact ⟨1#14, ⟨65#8, none, none, 0#39⟩, by decide +kernel⟩
  · exact ⟨3#14, ⟨66#8, none, none, 0#39⟩, by decide +kernel⟩

/-- The matched pair of 65: 0, 66: 1, whose leftmost leaf is at depth 1. -/
def pairOneBit : State :=
  { State.reset with
    ct := (emptyTable.set 65 [false]).set 66 [true]
    arena := [⟨0xFF#8, some 1#14, some 2#14, 0#39⟩, ⟨65#8, none, none, 0#39⟩, ⟨66#8, none, none, 0#39⟩]
    treeValid := true
    tableValid := true }

theorem pairOneBit_matched : Matched pairOneBit := by
  refine ⟨rfl, rfl, fun c hc => ?_⟩
  have two : ∀ c, pairOneBit.codeAt c ≠ [] → c = 65 ∨ c = 66 := by decide +kernel
  obtain rfl | rfl := two c hc
  · exact ⟨1#14, ⟨65#8, none, none, 0#39⟩, by decide +kernel⟩
  · exact ⟨2#14, ⟨66#8, none, none, 0#39⟩, by decide +kernel⟩

theorem twoTrees_sched : SchedInv twoTrees where
  ordered := by decide +kernel
  counts := .inr (by decide +kernel)
  entries := by decide +kernel
  seqs := by decide +kernel
  sum := by decide +kernel

theorem witness_EveryResetLeavesTheResetState :
    ({ pairR1 with sched := [.reset, .host] } : State).sched = .reset :: [.host] := rfl

theorem witness_AnalyzeStartsFromZero : (accepted .analyze []).phase = .start := rfl

theorem witness_AnalyzeTakesOneItem :
    (running .analyze [.byte 0x7F#8]).phase = .run ∧
    (running .analyze [.byte 0x7F#8]).inq = .byte (BitVec.ofNat 8 (127 : Symbol).val) :: [] ∧
    (running .analyze [.byte 0x7F#8]).freqAt 127 ≠ BitVec.allOnes 32 ∧
    ((running .analyze [.byte 0x00#8]).setFreq 0 0xFFFFFFFF#32).inq = .byte (BitVec.ofNat 8 (0 : Symbol).val) :: [] ∧
    ((running .analyze [.byte 0x00#8]).setFreq 0 0xFFFFFFFF#32).freqAt 0 = BitVec.allOnes 32 ∧
    128 ≤ (0x80#8 : Byte).toNat ∧ (running .analyze [.byte 0x80#8]).nonascii ≠ BitVec.allOnes 64 ∧
    ({ running .analyze [.byte 0x80#8] with nonascii := 0xFFFFFFFFFFFFFFFF#64 } : State).nonascii = BitVec.allOnes 64 ∧
    (running .analyze [.eos, .eos]).inq = .eos :: [.eos] := by decide +kernel

theorem witness_AnalyzeCountsTheStream :
    Starting .analyze (accepted .analyze [.byte 0x41#8, .byte 0xC8#8, .byte 0x42#8, .eos]) ∧
    (accepted .analyze [.byte 0x41#8, .byte 0xC8#8, .byte 0x42#8, .eos]).inq
      = [0x41#8, 0xC8#8, 0x42#8].map Item.byte ++ .eos :: [] ∧
    (∀ c : Symbol, (([0x41#8, 0xC8#8, 0x42#8] : List Byte).countP fun b => b.toNat == c.val) < 2 ^ 32) ∧
    (([0x41#8, 0xC8#8, 0x42#8] : List Byte).countP fun b => 128 ≤ b.toNat) < 2 ^ 64 :=
  ⟨⟨rfl, rfl, rfl, rfl⟩, rfl, by decide +kernel, by decide +kernel⟩

theorem witness_InsertKeepsTheHeap :
    HeapOrdered [(⟨3#39, 1#8, 101#14⟩ : Entry), ⟨5#39, 0#8, 100#14⟩] ∧
    ∀ d ∈ [(⟨3#39, 1#8, 101#14⟩ : Entry), ⟨5#39, 0#8, 100#14⟩], d.key ≠ (⟨3#39, 3#8, 103#14⟩ : Entry).key := by
  decide +kernel

theorem witness_RemoveMinTakesTheLeast :
    twoTrees.heap = ⟨0#39, 252#8, 252#14⟩ :: [⟨0#39, 253#8, 253#14⟩] ∧ HeapOrdered twoTrees.heap ∧
    (twoTrees.heap.map Entry.key).Nodup ∧ State.reset.heap = [] := by decide +kernel

theorem witness_HmergeJoinsTheTwoSmallest : SchedInv twoTrees ∧ 2 ≤ twoTrees.hn := ⟨twoTrees_sched, by decide +kernel⟩

theorem witness_HtakeTakesTheLastTree :
    ({ State.reset with heap := [⟨0#39, 254#8, 254#14⟩] } : State).heap = [⟨0#39, 254#8, 254#14⟩] := rfl

theorem witness_GenGivesEveryLeafItsPath :
    ArenaInv pairR1 ∧ pairR1.treeValid = true ∧ LeafAt pairR1.arena pairR1.root [false, true] (BitVec.ofNat 8 (66 : Symbol).val) :=
  ⟨pairIn_arena false 0#32 [] 0#8, rfl, pairR1_leaf 66 (by decide +kernel)⟩

theorem witness_ReconBuildsTheTableTree : TableInv pairR1 ∧ pairR1.tableValid = true ∧ pairR1.codeAt 66 ≠ [] :=
  ⟨pairIn_table false 0#32 [] 0#8, rfl, by decide +kernel⟩

theorem witness_GenUndoesRecon : TableInv pairR1 ∧ pairR1.tableValid = true ∧ PrefixFree pairR1.ct :=
  ⟨pairIn_table false 0#32 [] 0#8, rfl, pairR1_prefixFree⟩

theorem witness_HidumpEmitsTheImage : pairR1.tableValid = true ∧ State.reset.tableValid = false := ⟨rfl, rfl⟩

theorem witness_HiloadStartAndEnd :
    (accepted .hiload []).phase = .start ∧ (parsing .code 127 [true] 0x0A#8).phase = .run ∧
    ({ parsing .code 127 [true] 0x0A#8 with inq := [.eos] } : State).inq = .eos :: [] ∧
    (parsing .first 0 [] 0#8).pst = .first ∧ (parsing .sol 0 [] 0#8).pst = .sol ∧ (parsing .idx 0 [] 0#8).pst = .idx ∧
    (parsing .sep 127 [] 0#8).pst = .sep ∧ (parsing .code 127 [true] 0#8).pst = .code := ⟨rfl, rfl, rfl, rfl, rfl, rfl, rfl, rfl⟩

/-- A clause of the parser's table each, at the edges of the character classes and of the index. -/
theorem witness_HiloadParsesByItsTable :
    (∀ p i buffer c, (parsing p i buffer c).phase = .run ∧ (parsing p i buffer c).inq = .byte c :: [] ∧
      (parsing p i buffer c).pst = p ∧ (parsing p i buffer c).pidx = i ∧ (parsing p i buffer c).pbuf = buffer) ∧
    (0x0A#8 : Byte) ≠ 0x0B#8 ∧ (0x30 ≤ (0x30#8 : Byte).toNat ∧ (0x39#8 : Byte).toNat ≤ 0x39) ∧
    ¬ ((0x3A#8 : Byte).toNat ≤ 0x39) ∧ ¬ (0x30 ≤ (0x2F#8 : Byte).toNat) ∧
    (12 : Symbol).val * 10 + ((0x37#8 : Byte).toNat - 0x30) ≤ 127 ∧
    127 < (12 : Symbol).val * 10 + ((0x38#8 : Byte).toNat - 0x30) ∧
    ¬ ((0x32#8 : Byte) = 0x30#8 ∨ (0x32#8 : Byte) = 0x31#8) ∧ ¬ ((0x32#8 : Byte) = 0x20#8 ∨ (0x32#8 : Byte) = 0x09#8) ∧
    (parsing .code 0 (List.replicate 127 true) 0x31#8).pbuf.length = 127 ∧
    (parsing .code 0 (List.replicate 126 true) 0x31#8).pbuf.length ≠ 127 :=
  ⟨fun _ _ _ _ => ⟨rfl, rfl, rfl, rfl, rfl⟩, by decide +kernel⟩

theorem witness_HiloadReloadsAnImage :
    (∀ c : Symbol, pairR1.ct[c.val].length ≤ 127) ∧
    Starting .hiload (accepted .hiload ((hiImage pairR1.ct).map Item.byte ++ .eos :: [])) :=
  ⟨(pairIn_table false 0#32 [] 0#8).codes, ⟨rfl, rfl, rfl, rfl⟩⟩

theorem witness_WriterEmitsThePackedBits :
    State.reset.acc = 0#8 ∧ State.reset.wcnt = 0 ∧ State.reset.outBytes.toNat + (pack [true, false, true]).length < 2 ^ 64 := by
  decide +kernel

/-- A `COMPRESS` with the pair of V-R1 between its steps. -/
def compressing (items : List Item) : State :=
  { pairR1 with busy := true, cmdr := encode .compress, phase := .run, inq := items }

theorem witness_CompressStartAndSilentBytes :
    (pairR1.phase = .start ∧ pairR1.treeValid = true ∧ pairR1.tableValid = true) ∧
    (∀ b, (compressing [.byte b]).phase = .run ∧ (compressing [.byte b]).inq = .byte b :: []) ∧
    ({ compressing [.byte 0x41#8] with inBytes := 0xFFFFFFFFFFFFFFFF#64 } : State).inBytes = BitVec.allOnes 64 ∧
    (compressing []).inBytes ≠ BitVec.allOnes 64 ∧ 128 ≤ (0x80#8 : Byte).toNat ∧ (0x7F#8 : Byte).toNat < 128 ∧
    codeOfByte (compressing []).ct 0x7F#8 = [] := ⟨⟨rfl, rfl, rfl⟩, fun _ => ⟨rfl, rfl⟩, by decide +kernel⟩

/-- Both clauses, where the first full byte just fits and where it just does not. -/
theorem witness_CompressAppendsTheCode :
    (0x42#8 : Byte).toNat < 128 ∧ (compressing []).inBytes ≠ BitVec.allOnes 64 ∧
    (let s : State := { compressing [.byte 0x42#8] with acc := 0xFE#8, wcnt := 7, outBytes := 0xFFFFFFFFFFFFFFFE#64 };
      s.phase = .run ∧ s.inq = .byte 0x42#8 :: [] ∧ s.acc.toNat % 2 ^ (8 - s.wcnt.val) = 0 ∧
      ((bitsOfByte s.acc).take s.wcnt.val ++ codeOfByte s.ct 0x42#8).length / 8 ≤ 2 ^ 64 - 1 - s.outBytes.toNat) ∧
    (let s : State := { compressing [.byte 0x42#8] with acc := 0xFE#8, wcnt := 7, outBytes := 0xFFFFFFFFFFFFFFFF#64 };
      s.phase = .run ∧ s.inq = .byte 0x42#8 :: [] ∧ s.acc.toNat % 2 ^ (8 - s.wcnt.val) = 0 ∧
      2 ^ 64 - 1 - s.outBytes.toNat < ((bitsOfByte s.acc).take s.wcnt.val ++ codeOfByte s.ct 0x42#8).length / 8) := by
  decide +kernel

theorem witness_CompressEndsWithAFlush :
    (compressing [.eos]).phase = .run ∧ (compressing [.eos]).inq = .eos :: [] ∧ (compressing [.eos]).wcnt.val = 0 ∧
    0 < ({ compressing [.eos] with acc := 0x80#8, wcnt := 1 } : State).wcnt.val ∧
    (compressing [.eos]).outBytes ≠ BitVec.allOnes 64 ∧
    ({ compressing [.eos] with outBytes := 0xFFFFFFFFFFFFFFFF#64 } : State).outBytes = BitVec.allOnes 64 := by decide +kernel

theorem witness_CompressPacksTheCodes :
    Starting .compress (pairIn true (encode .compress) [.byte 0x41#8, .byte 0x42#8, .eos] 0#8) ∧
    (pairIn true (encode .compress) [.byte 0x41#8, .byte 0x42#8, .eos] 0#8).inq = [0x41#8, 0x42#8].map Item.byte ++ .eos :: [] ∧
    [0x41#8, 0x42#8].length < 2 ^ 64 ∧ (pack ([0x41#8, 0x42#8].flatMap (codeOfByte pairR1.ct))).length < 2 ^ 64 :=
  ⟨⟨rfl, rfl, rfl, rfl⟩, rfl, by decide, by decide +kernel⟩

theorem witness_DecompressStartAndEnd :
    (pairR1.phase = .start ∧ pairR1.treeValid = true) ∧
    ((running .decompress [.eos]).phase = .run ∧ (running .decompress [.eos]).inq = .eos :: []) :=
  ⟨⟨rfl, rfl⟩, rfl, rfl⟩

/-- Both clauses on the tree of V-R1: B6 is walked whole, and in B4 (V-D2) the last bit finds no child at node 2. -/
theorem witness_DecompressWalksEveryBit :
    decodeBits pairR1.arena 0#14 0#14 (bitsOfByte 0xB6#8) = some ([0x41#8, 0x42#8, 0x41#8, 0x42#8, 0x41#8], 2#14) ∧
    bitsOfByte 0xB4#8 = [true, false, true, true, false, true, false] ++ false :: [] ∧
    decodeBits pairR1.arena 0#14 0#14 [true, false, true, true, false, true, false]
      = some ([0x41#8, 0x42#8, 0x41#8, 0x42#8], 2#14) ∧
    nodeAt pairR1.arena 2#14 = some ⟨0xFF#8, none, some 3#14, 0#39⟩ ∧
    (⟨0xFF#8, none, some 3#14, 0#39⟩ : Node).child false = none := by decide +kernel

/-- A `DECOMPRESS` just accepted, with a matched pair and the packed codes of a symbol sequence in `INQ`. -/
def decoding (pair : State) (symbolsIn : List Symbol) : State :=
  { pair with
    busy := true, cmdr := encode .decompress
    inq := (pack (symbolsIn.flatMap pair.codeAt)).map Item.byte ++ .eos :: [] }

theorem pairR1_matched : Matched pairR1 := ⟨rfl, rfl, pairR1_leaf⟩

/-- All three cases: a leftmost leaf at depth 1 (V-P3 has another); on the tree of V-R1, whose left chain ends at depth 1 at
node 2, the seven bits of B6 with one of padding, and the four bits of V-D2's B0 with four. -/
theorem witness_RoundTripWithSpuriousTail :
    (Matched (decoding pairOneBit [65, 66]) ∧ Starting .decompress (decoding pairOneBit [65, 66]) ∧
      (∀ c ∈ ([65, 66] : List Symbol), (decoding pairOneBit [65, 66]).codeAt c ≠ []) ∧
      (decoding pairOneBit [65, 66]).inq
        = (pack (([65, 66] : List Symbol).flatMap (decoding pairOneBit [65, 66]).codeAt)).map Item.byte ++ .eos :: [] ∧
      0 < 1 ∧ LeafAt (decoding pairOneBit [65, 66]).arena (decoding pairOneBit [65, 66]).root (List.replicate 1 false) 65#8) ∧
    (∀ symbolsIn : List Symbol, Matched (decoding pairR1 symbolsIn) ∧ Starting .decompress (decoding pairR1 symbolsIn) ∧
      (decoding pairR1 symbolsIn).inq
        = (pack (symbolsIn.flatMap (decoding pairR1 symbolsIn).codeAt)).map Item.byte ++ .eos :: []) ∧
    (∀ c ∈ ([65, 66] : List Symbol), pairR1.codeAt c ≠ []) ∧
    follow pairR1.arena pairR1.root (List.replicate 1 false) = some 2#14 ∧
    nodeAt pairR1.arena 2#14 = some ⟨0xFF#8, none, some 3#14, 0#39⟩ ∧
    (⟨0xFF#8, none, some 3#14, 0#39⟩ : Node).isLeaf = false ∧
    paddingBits (([65, 66, 65, 66, 65] : List Symbol).flatMap pairR1.codeAt).length ≤ 1 ∧
    1 < paddingBits (([65, 66, 65] : List Symbol).flatMap pairR1.codeAt).length :=
  ⟨⟨pairOneBit_matched, ⟨rfl, rfl, rfl, rfl⟩, by decide +kernel, rfl, by decide,
      pairOneBit_matched.2.2 65 (by decide +kernel)⟩,
    fun _ => ⟨pairR1_matched, ⟨rfl, rfl, rfl, rfl⟩, rfl⟩, by decide +kernel⟩

theorem witness_PreconditionsAreTestedFirst :
    State.reset.treeValid = false ∧ State.reset.tableValid = false ∧ State.reset.phase = .start ∧ State.reset.hn = 0 ∧
    ({ pairR1 with tableValid := false } : State).treeValid = true ∧
    ({ State.reset with heap := [⟨0#39, 0#8, 0#14⟩] } : State).hn < 2 ∧ 1 < twoTrees.hn := by decide +kernel

theorem witness_RaiseEndsTheCommand :
    genRule State.reset = .raised .missingTree 0#32 State.reset ∧
    (State.reset.phase = .start ∧ compressStart State.reset = .raised .missingTree 0#32 State.reset) ∧
    ((parsing .sol 0 [] 0x78#8).phase = .run ∧ (parsing .sol 0 [] 0x78#8).inq = .byte 0x78#8 :: [] ∧
      hiloadByte 0x78#8 { parsing .sol 0 [] 0x78#8 with inq := [] }
        = .raised .hiFormat 0x78#32 { parsing .sol 0 [] 0x78#8 with inq := [] }) ∧
    ((compressing [.eos]).phase = .run ∧ (compressing [.eos]).inq = .eos :: [] ∧
      compressEnd { compressing [] with wcnt := 1, outBytes := BitVec.allOnes 64 }
        = .raised .countOvf 0#32 { compressing [] with wcnt := 1, outBytes := BitVec.allOnes 64 }) :=
  ⟨rfl, ⟨rfl, rfl⟩, ⟨rfl, rfl, rfl⟩, rfl, rfl, rfl⟩

theorem witness_IllegalWordFaults :
    (∀ i, (0x00000003#32 : Word) ≠ encode i) ∧ (∀ i, (0x00000102#32 : Word) ≠ encode i) ∧ State.reset.busy = false ∧
    State.reset.err = 0#8 := ⟨fun i => by cases i <;> decide, fun i => by cases i <;> decide, rfl, rfl⟩

theorem witness_RecordedFaultIsNeverOverwritten :
    EngineInv (pairIn false 0#32 [.eos] 6#8) ∧ (pairIn false 0#32 [.eos] 6#8).err ≠ 0#8 ∧
    step (pairIn false 0#32 [.eos] 6#8) = .next (pairIn false 0#32 [.eos] 6#8) :=
  ⟨pairIn_inv (by decide) (fun h => Bool.noConfusion h), by decide, rfl⟩

theorem witness_BusErrorChangesNothing :
    (memRead 0x00048#20 4 pairR1).1 = .busErr ∧ (memWrite 0x00044#20 4 0#32 pairR1).1 = .busErr := by decide +kernel

/-- The edges of every range, in a state with four nodes. -/
theorem witness_IllFormedUnmappedOrWrongWayAccessIsRefused :
    ((2 : Nat) ≠ 4 ∨ (0x00004#20 : Addr).toNat % 4 ≠ 0) ∧ ((4 : Nat) ≠ 4 ∨ (0x00005#20 : Addr).toNat % 4 ≠ 0) ∧
    (0x48 ≤ (0x00048#20 : Addr).toNat ∧ (0x003FC#20 : Addr).toNat < 0x400) ∧
    (0x600 ≤ (0x00600#20 : Addr).toNat ∧ (0x00FFC#20 : Addr).toNat < 0x1000) ∧
    (0x2000 ≤ (0x02000#20 : Addr).toNat ∧ (0x3FFFC#20 : Addr).toNat < 0x40000) ∧
    0x40000 + 16 * pairR1.nn ≤ (0x40040#20 : Addr).toNat ∧ ¬ 0x40000 + 16 * pairR1.nn ≤ (0x4003C#20 : Addr).toNat ∧
    (0x00000#20 : Addr).toNat = 0x00 ∧ (0x00040#20 : Addr).toNat = 0x40 ∧
    (0x04 ≤ (0x00004#20 : Addr).toNat ∧ (0x0003C#20 : Addr).toNat ≤ 0x3C) ∧ (0x00044#20 : Addr).toNat = 0x44 ∧
    (0x1000 ≤ (0x01000#20 : Addr).toNat ∧ (0x01FFC#20 : Addr).toNat < 0x2000) ∧ 0x40000 ≤ (0x40000#20 : Addr).toNat := by
  decide +kernel

theorem witness_WindowsAreHiddenWhileBusy :
    (running .analyze []).busy = true ∧ 0x2C ≤ (0x0002C#20 : Addr).toNat ∧ (0x0003C#20 : Addr).toNat ≤ 0x3C ∧
    0x400 ≤ (0xFFFFC#20 : Addr).toNat ∧ ((0x00044#20 : Addr).toNat % 4 = 0 ∧ (0x00044#20 : Addr).toNat = 0x44) ∧
    ((0x00028#20 : Addr).toNat % 4 = 0 ∧ 4 ≤ (0x00028#20 : Addr).toNat ∧ (0x00028#20 : Addr).toNat ≤ 0x28) := by decide

theorem witness_CommandAcceptance :
    (running .analyze []).busy = true ∧ (0x00000000#32 : Word) ≠ 0x00000002#32 ∧
    (pairIn false 0#32 [] 6#8).busy = false ∧ (pairIn false 0#32 [] 6#8).err ≠ 0#8 ∧
    (0x00000000#32 : Word) ≠ 0x00000001#32 ∧ State.reset.busy = false ∧ State.reset.err = 0#8 := by decide +kernel

theorem witness_StreamRegistersQueueAndPop :
    (0xFFFFFE41#32 : Word).getLsbD 8 = false ∧ (0x00000100#32 : Word).getLsbD 8 = true ∧
    ({ State.reset with outq := [0xFF#8] } : State).outq = 0xFF#8 :: [] ∧ State.reset.outq = [] := by decide +kernel

theorem witness_OnlyOutDataReadsHaveEffects : (0x00040#20 : Addr) ≠ 0x00044#20 := by decide

theorem witness_CountersAndHeadsReadBack :
    twoTrees.busy = false ∧ twoTrees.hn ≤ 128 ∧ twoTrees.nn ≤ Config.nodeCap := by decide +kernel

theorem witness_FreqWindowReadsBack :
    State.reset.busy = false ∧ (0x00400#20 : Addr).toNat = 0x400 + 4 * (0 : Symbol).val ∧
    (0x005FC#20 : Addr).toNat = 0x400 + 4 * (127 : Symbol).val := by decide +kernel

theorem witness_TableWindowIsLeftAligned :
    pairR1.busy = false ∧ (pairR1.codeAt 127).length ≤ 127 ∧
    (0x01000#20 : Addr).toNat = 0x1000 + 32 * (0 : Symbol).val + 4 * 0 ∧
    (0x01FFC#20 : Addr).toNat = 0x1000 + 32 * (127 : Symbol).val + 4 * 7 := by decide +kernel

theorem witness_NodeWindowShowsTheFields :
    pairR1.busy = false ∧ pairR1.nn ≤ Config.nodeCap ∧ (0x40000#20 : Addr).toNat = 0x40000 + 16 * 0 + 4 * 0 ∧
    (0x7F81C#20 : Addr).toNat = 0x40000 + 16 * 16257 + 4 * 3 ∧ pairR1.nn ≤ 16257 ∧
    pairR1.arena[0]? = some ⟨0xFF#8, some 2#14, some 1#14, 0#39⟩ := by decide +kernel

theorem witness_DrainReadsEveryByte :
    ({ State.reset with outq := [1#8], host := [.drain] } : State).busy = false ∧
    ({ State.reset with outq := [1#8], host := [.drain] } : State).sched = [] ∧
    ({ State.reset with outq := [1#8], host := [.drain] } : State).host = .drain :: [] := ⟨rfl, rfl, rfl⟩

theorem witness_StepRunsTheDecodedCommand :
    ({ accepted .gen [] with sched := [.engine] } : State).sched = .engine :: [] ∧
    (accepted .gen []).engineEnabled = true ∧ decode (accepted .gen []).cmdr = .ok .gen ∧ (accepted .gen []).sched = [] := by
  decide +kernel

theorem witness_OnlyTheNamedCommandsWrite :
    exec .clrerr State.reset = .next State.reset ∧ Instr.clrerr ∉ [Instr.fclr, .analyze, .srst] ∧
    exec .nop (accepted .nop [.eos]) = .next { accepted .nop [.eos] with busy := false } ∧
    exec .analyze (running .analyze [.byte 0x80#8]) = .next { running .analyze [] with nonascii := 1#64, warn := true } ∧
    (running .analyze []).busy = true :=
  ⟨rfl, by decide, rfl, rfl, rfl⟩

theorem witness_NonStreamCommandIsOneStep :
    Instr.nop.isStream = false ∧ exec .nop (accepted .nop []) = .next { accepted .nop [] with busy := false } := ⟨rfl, rfl⟩

theorem witness_BusyEndsOnceEosIsQueued :
    EngineInv (pairIn true (encode .decompress) [.byte 0xB6#8, .eos] 0#8) ∧
    (pairIn true (encode .decompress) [.byte 0xB6#8, .eos] 0#8).busy = true ∧
    (pairIn true (encode .decompress) [.byte 0xB6#8, .eos] 0#8).sched = [] ∧
    Item.eos ∈ (pairIn true (encode .decompress) [.byte 0xB6#8, .eos] 0#8).inq :=
  ⟨pairIn_inv (by decide) (fun _ => rfl), rfl, rfl, by decide⟩

theorem witness_EveryEventKeepsTheInvariant :
    EngineInv (pairIn true (encode .nop) [] 0#8) ∧ step (pairIn true (encode .nop) [] 0#8) = .next (pairIn false (encode .nop) [] 0#8) :=
  ⟨pairIn_inv (by decide) (fun _ => rfl), rfl⟩

theorem witness_RunsNeverStop : EngineInv (pairIn true (encode .gen) [] 0#8) := pairIn_inv (by decide) (fun _ => rfl)

theorem witness_RoundFiveMeetsItsLaw : (9 / 2 : Rat) = ((450000 : Int) : Rat) / 100000 := by norm_num

theorem witness_RatiosAreGuarded : (0#64 : Count) = 0#64 ∧ (4#64 : Count) ≠ 0#64 := by decide

end Sys2Proof.Machine
end

section
/-! SUPPORT. The binary heap of the scheduler (spec/41_scheduler.md R142 to R146): both sifts permute the array, and from an
array that is in order but at one position they leave one that is in order. -/

namespace Sys2Proof.Machine

section Sifts

variable {h : List Entry}

theorem keyAt_of_lt {i : Nat} (hi : i < h.length) : keyAt h i = h[i].key := by simp [keyAt, hi]

theorem keyAt_set {i : Nat} (e : Entry) (hi : i < h.length) (j : Nat) :
    keyAt (h.set i e) j = if j = i then e.key else keyAt h j := by
  obtain rfl | hne := eq_or_ne i j
  · simp [keyAt, hi]
  · simp [keyAt, List.getElem?_set_ne hne, hne.symm]

/-- Two positions of an array exchanged, as both sifts write it. -/
def exchange (h : List Entry) (i j : Nat) (hi : i < h.length) (hj : j < h.length) : List Entry :=
  (h.set i h[j]).set j h[i]

theorem exchange_perm {i j : Nat} (hi : i < h.length) (hj : j < h.length) : (exchange h i j hi hj).Perm h :=
  List.set_set_perm hi hj

@[simp] theorem exchange_length {i j : Nat} (hi : i < h.length) (hj : j < h.length) :
    (exchange h i j hi hj).length = h.length := by
  simp [exchange]

theorem keyAt_exchange {i j : Nat} (hi : i < h.length) (hj : j < h.length) (k : Nat) :
    keyAt (exchange h i j hi hj) k = if k = j then keyAt h i else if k = i then keyAt h j else keyAt h k := by
  rw [exchange, keyAt_set _ (by simpa using hj), keyAt_set _ hi, keyAt_of_lt hi, keyAt_of_lt hj]

/-- Different positions hold different keys. -/
theorem keyAt_ne (hd : (h.map Entry.key).Nodup) {i j : Nat} (hi : i < h.length) (hj : j < h.length) (hne : i ≠ j) :
    keyAt h i ≠ keyAt h j := by
  rw [keyAt_of_lt hi, keyAt_of_lt hj]
  intro he
  exact hne ((hd.getElem_inj_iff (hi := by simpa using hi) (hj := by simpa using hj)).1 (by simpa using he))

/-- What a step of the sift up does: it stops, or it exchanges a position with its parent, which has the larger key. -/
theorem siftUp_succ_cases (fuel i : Nat) (h : List Entry) (hi : i < h.length) :
    ((i = 0 ∨ keyAt h ((i - 1) / 2) ≤ keyAt h i) ∧ siftUp (fuel + 1) i h = h) ∨
    (0 < i ∧ keyAt h i < keyAt h ((i - 1) / 2) ∧
      siftUp (fuel + 1) i h = siftUp fuel ((i - 1) / 2) (exchange h i ((i - 1) / 2) hi (by omega))) := by
  have hp : (i - 1) / 2 < h.length := by omega
  rw [keyAt_of_lt hi, keyAt_of_lt hp, siftUp, List.getElem?_eq_getElem hi, List.getElem?_eq_getElem hp]
  by_cases h0 : i = 0
  · simp [h0]
  · by_cases hk : h[i].key < h[(i - 1) / 2].key
    · simp [h0, hk, exchange, Nat.pos_of_ne_zero h0]
    · simp [h0, hk, Nat.le_of_not_lt hk]

theorem siftUp_perm (fuel : Nat) {i : Nat} {h : List Entry} (hi : i < h.length) : (siftUp fuel i h).Perm h := by
  induction fuel generalizing i h with
  | zero => exact .refl _
  | succ fuel ih =>
    obtain ⟨-, he⟩ | ⟨-, -, he⟩ := siftUp_succ_cases fuel i h hi <;> rw [he]
    exact (ih (by simp; omega)).trans (exchange_perm _ _)

/-- In order but between `i` and its parent; the children of `i` are in order with that parent. -/
structure OrderedButUp (h : List Entry) (i : Nat) : Prop where
  others : ∀ j, j < h.length → 0 < j → j ≠ i → keyAt h ((j - 1) / 2) < keyAt h j
  across : 0 < i → ∀ j, j < h.length → 0 < j → (j - 1) / 2 = i → keyAt h ((i - 1) / 2) < keyAt h j

/-- An exchange with a parent of larger key leaves the array in order but between that parent and its own. -/
theorem OrderedButUp.exchange {i : Nat} (ho : OrderedButUp h i) (hi : i < h.length) (h0 : 0 < i)
    (hk : keyAt h i < keyAt h ((i - 1) / 2)) :
    OrderedButUp (exchange h i ((i - 1) / 2) hi (by omega)) ((i - 1) / 2) where
  others j hj hj0 hne := by
    rw [exchange_length] at hj
    have hold := ho.others j hj hj0
    have hacross := ho.across h0 j hj hj0
    simp only [keyAt_exchange, hne, if_false]
    split_ifs <;> grind
  across h0' j hj hj0 hpar := by
    rw [exchange_length] at hj
    have hup := ho.others ((i - 1) / 2) (by omega) h0' (by omega)
    have hold := ho.others j hj hj0
    simp only [keyAt_exchange]
    rw [if_neg (by omega), if_neg (by omega), if_neg (by omega)]
    split_ifs <;> grind

theorem siftUp_ordered {fuel i : Nat} {h : List Entry} (hf : i ≤ fuel) (hi : i < h.length)
    (hd : (h.map Entry.key).Nodup) (ho : OrderedButUp h i) : HeapOrdered (siftUp fuel i h) := by
  induction fuel generalizing i h with
  | zero => exact fun j hj hj0 => ho.others j hj hj0 (by omega)
  | succ fuel ih =>
    obtain ⟨hstop, he⟩ | ⟨h0, hk, he⟩ := siftUp_succ_cases fuel i h hi <;> rw [he]
    · intro j hj hj0
      by_cases hji : j = i
      · subst hji
        have := keyAt_ne hd (i := (j - 1) / 2) (j := j) (by omega) hj (by omega)
        omega
      · exact ho.others j hj hj0 hji
    · exact ih (by omega) (by simp; omega) (((exchange_perm _ _).map _).nodup_iff.2 hd) (ho.exchange hi h0 hk)

/-- The choice between a position and a child of it: where the child is there, the one with the smaller key. -/
theorem smallerAt_eq {m c : Nat} (hm : m < h.length) :
    smallerAt h m c = if c < h.length ∧ keyAt h c < keyAt h m then c else m := by
  by_cases hc : c < h.length
  · simp [smallerAt, keyAt, hm, hc]
  · simp [smallerAt, hm, hc]

/-- What a step of the sift down does: it stops where no child has a smaller key, or it exchanges a position with its child
of smallest key, which is smaller than its own. -/
theorem siftDown_succ_cases (fuel i : Nat) (h : List Entry) (hi : i < h.length) :
    ((∀ j, j < h.length → 0 < j → (j - 1) / 2 = i → keyAt h i ≤ keyAt h j) ∧ siftDown (fuel + 1) i h = h) ∨
    ∃ m, ∃ hm : m < h.length, 0 < m ∧ (m - 1) / 2 = i ∧ keyAt h m < keyAt h i ∧
      (∀ j, j < h.length → 0 < j → (j - 1) / 2 = i → keyAt h m ≤ keyAt h j) ∧
      siftDown (fuel + 1) i h = siftDown fuel m (exchange h i m hi hm) := by
  have children : ∀ j, 0 < j → (j - 1) / 2 = i → j = 2 * i + 1 ∨ j = 2 * i + 2 := by omega
  have hm1 : smallerAt h i (2 * i + 1) < h.length := by rw [smallerAt_eq hi]; split <;> omega
  obtain ⟨m, hm⟩ : ∃ m, smallerAt h (smallerAt h i (2 * i + 1)) (2 * i + 2) = m := ⟨_, rfl⟩
  have hmin : (m = i ∨ (m < h.length ∧ 0 < m ∧ (m - 1) / 2 = i ∧ keyAt h m < keyAt h i)) ∧
      ∀ j, j < h.length → 0 < j → (j - 1) / 2 = i → keyAt h m ≤ keyAt h j := by
    rw [smallerAt_eq hm1, smallerAt_eq hi] at hm
    constructor
    · split_ifs at hm <;> subst hm <;> omega
    · intro j hj hj0 hpar
      obtain rfl | rfl := children j hj0 hpar <;> split_ifs at hm <;> subst hm <;> omega
  obtain ⟨hcase, hle⟩ := hmin
  simp only [siftDown, hm]
  by_cases hmi : m = i
  · exact .inl ⟨hmi ▸ hle, by simp [hmi]⟩
  · obtain ⟨hlt, h0, hpar, hk⟩ := hcase.resolve_left hmi
    exact .inr ⟨m, hlt, h0, hpar, hk, hle, by simp [hmi, hi, hlt, exchange]⟩

theorem siftDown_perm (fuel : Nat) {i : Nat} {h : List Entry} (hi : i < h.length) : (siftDown fuel i h).Perm h := by
  induction fuel generalizing i h with
  | zero => exact .refl _
  | succ fuel ih =>
    obtain ⟨-, he⟩ | ⟨m, hm, -, -, -, -, he⟩ := siftDown_succ_cases fuel i h hi <;> rw [he]
    exact (ih (by simpa using hm)).trans (exchange_perm _ _)

/-- In order but between `i` and its children; these are in order with the parent of `i`. -/
structure OrderedButDown (h : List Entry) (i : Nat) : Prop where
  others : ∀ j, j < h.length → 0 < j → (j - 1) / 2 ≠ i → keyAt h ((j - 1) / 2) < keyAt h j
  across : 0 < i → ∀ j, j < h.length → 0 < j → (j - 1) / 2 = i → keyAt h ((i - 1) / 2) < keyAt h j

/-- An exchange with the child of smallest key leaves the array in order but between that child and its own children. -/
theorem OrderedButDown.exchange {i m : Nat} (ho : OrderedButDown h i) (hd : (h.map Entry.key).Nodup) (hi : i < h.length)
    (hm : m < h.length) (h0 : 0 < m) (hpar : (m - 1) / 2 = i) (hk : keyAt h m < keyAt h i)
    (hle : ∀ j, j < h.length → 0 < j → (j - 1) / 2 = i → keyAt h m ≤ keyAt h j) :
    OrderedButDown (exchange h i m hi hm) m where
  others j hj hj0 hne := by
    rw [exchange_length] at hj
    have hold := ho.others j hj hj0
    have hleast := hle j hj hj0
    have hup := fun h0' => ho.across h0' m hm h0 hpar
    simp only [keyAt_exchange, hne, if_false]
    by_cases hjm : j = m
    · simp [hjm, hpar, hk]
    · have hdiff := keyAt_ne hd hm hj (Ne.symm hjm)
      by_cases hji : j = i
      · subst hji
        rw [if_neg (by omega), if_neg hjm, if_pos rfl]
        exact hup hj0
      · by_cases hpj : (j - 1) / 2 = i
        · simp only [hpj, hjm, hji, if_true, if_false]
          have := hleast hpj
          omega
        · simpa only [hpj, hjm, hji, if_false] using hold hpj
  across _ j hj hj0 hpj := by
    rw [exchange_length] at hj
    have hold := ho.others j hj hj0 (by omega)
    simp only [keyAt_exchange]
    rw [if_neg (by omega), if_pos hpar, if_neg (by omega), if_neg (by omega)]
    rwa [hpj] at hold

theorem siftDown_ordered {fuel i : Nat} {h : List Entry} (hf : h.length ≤ i + fuel) (hi : i < h.length)
    (hd : (h.map Entry.key).Nodup) (ho : OrderedButDown h i) : HeapOrdered (siftDown fuel i h) := by
  induction fuel generalizing i h with
  | zero => omega
  | succ fuel ih =>
    obtain ⟨hstop, he⟩ | ⟨m, hm, h0, hpar, hk, hle, he⟩ := siftDown_succ_cases fuel i h hi <;> rw [he]
    · intro j hj hj0
      by_cases hpj : (j - 1) / 2 = i
      · have := hstop j hj hj0 hpj
        have := keyAt_ne hd hi hj (by omega)
        rw [hpj]
        omega
      · exact ho.others j hj hj0 hpj
    · exact ih (by simp; omega) (by simpa using hm) (((exchange_perm _ _).map _).nodup_iff.2 hd)
        (ho.exchange hd hi hm h0 hpar hk hle)

end Sifts

section InsertAndPop

theorem heapInsert_perm (e : Entry) (h : List Entry) : (heapInsert e h).Perm (e :: h) :=
  (siftUp_perm _ (by simp)).trans (List.perm_append_singleton e h)

/-- R146 (a): an insert keeps the order, where the new key is none of the old ones. -/
theorem heapInsert_ordered {e : Entry} {h : List Entry} (ho : HeapOrdered h) (hd : ((e :: h).map Entry.key).Nodup) :
    HeapOrdered (heapInsert e h) := by
  have hold : ∀ j, j < h.length → keyAt (h ++ [e]) j = keyAt h j := fun j hj => by simp [keyAt, List.getElem?_append_left hj]
  refine siftUp_ordered le_rfl (by simp) (((List.perm_append_singleton e h).map _).nodup_iff.2 hd) ⟨?_, ?_⟩
  · intro j hj hj0 hne
    have hj' : j < h.length := by simp at hj; omega
    rw [hold j hj', hold _ (by omega)]
    exact ho j hj' hj0
  · intro _ j hj hj0 hpar
    simp at hj
    omega

/-- What a removal sifts down: the last entry before the others. -/
theorem heapPop_perm (rest : List Entry) : (heapPop rest).Perm rest := by
  unfold heapPop
  split
  · simp_all
  · rename_i e he
    have hlast : rest.dropLast ++ [e] = rest := List.dropLast_append_getLast? e he
    refine (siftDown_perm _ (by simp)).trans ?_
    conv => rhs; rw [← hlast]
    exact (List.perm_append_singleton e _).symm

/-- R146: a removal keeps the order. -/
theorem heapPop_ordered {e : Entry} {rest : List Entry} (ho : HeapOrdered (e :: rest))
    (hd : (rest.map Entry.key).Nodup) : HeapOrdered (heapPop rest) := by
  unfold heapPop
  split
  · intro i hi
    simp at hi
  · rename_i l hl
    have hlast : rest.dropLast ++ [l] = rest := List.dropLast_append_getLast? l hl
    have hlen : (l :: rest.dropLast).length = rest.length := by
      have := congrArg List.length hlast
      simpa using this
    have hperm : (l :: rest.dropLast).Perm rest := by
      conv => rhs; rw [← hlast]
      exact (List.perm_append_singleton l _).symm
    have hold : ∀ j, 0 < j → j < rest.length → keyAt (l :: rest.dropLast) j = keyAt (e :: rest) j := by
      intro j hj0 hj
      obtain ⟨k, rfl⟩ : ∃ k, j = k + 1 := ⟨j - 1, by omega⟩
      simp [keyAt, show k < rest.length - 1 by omega, show k < rest.length by omega]
    refine siftDown_ordered (by omega) (by simp) ((hperm.map _).nodup_iff.2 hd) ⟨?_, fun h0 => absurd h0 (by omega)⟩
    intro j hj hj0 hpar
    rw [hlen] at hj
    rw [hold j hj0 hj, hold _ (by omega) (by omega)]
    exact ho j (by simp; omega) hj0

end InsertAndPop

end Sys2Proof.Machine
end

section
/-! SUPPORT. What holds of a piece of pseudocode however it ends (spec R10, R311), and the rules of the tree builder
(spec/42_treebuilder.md) under it: from the state `HSEED` leaves no rule of `BUILD` raises, and each keeps the scheduler and
the arena in order. -/

namespace Sys2Proof.Machine

section Ensures

variable {α β : Type} {Q Q' : α → State → Prop} {R R' : State → Prop}

/-- `Q` holds of the value and the state a piece of pseudocode ends with, `R` of the state a raise in it leaves. -/
def Res.Ensures (Q : α → State → Prop) (R : State → Prop) : Res α → Prop
  | .ok a s => Q a s
  | .raised _ _ s => R s
  | .stuck _ => True

/-- A piece of pseudocode that does not raise. -/
abbrev Res.NoRaise : State → Prop := fun _ => False

theorem Res.Ensures.mono {r : Res α} (h : r.Ensures Q R) (hq : ∀ a s, Q a s → Q' a s) (hr : ∀ s, R s → R' s) :
    r.Ensures Q' R' := by
  cases r with
  | ok a s => exact hq a s h
  | raised e w s => exact hr s h
  | stuck f => trivial

theorem Res.Ensures.and {r : Res α} (h : r.Ensures Q R) (h' : r.Ensures Q' R') :
    r.Ensures (fun a s => Q a s ∧ Q' a s) (fun s => R s ∧ R' s) := by
  cases r with
  | ok a s => exact ⟨h, h'⟩
  | raised e w s => exact ⟨h, h'⟩
  | stuck f => trivial

theorem Res.Ensures.andThen {r : Res α} {k : α → State → Res β} {P : β → State → Prop} (h : r.Ensures Q R)
    (hk : ∀ a t, Q a t → (k a t).Ensures P R) : (r.andThen k).Ensures P R := by
  cases r with
  | ok a s => exact hk a s h
  | raised e w s => exact h
  | stuck f => trivial

/-- A loop over a list, with an invariant that may speak of the elements still to come. -/
theorem forEach_ensures {body : α → State → Res Unit} {P : List α → State → Prop}
    (h : ∀ x xs s, P (x :: xs) s → (body x s).Ensures (fun _ => P xs) R) (xs : List α) (s : State) (hs : P xs s) :
    (forEach body xs s).Ensures (fun _ => P []) R := by
  induction xs generalizing s with
  | nil => exact hs
  | cons x xs ih => exact (h x xs s hs).andThen fun _ t ht => ih t ht

/-- A counted loop, with an invariant that may speak of the number of rounds still to come. -/
theorem repeatTimes_ensures {body : State → Res Unit} {P : Nat → State → Prop}
    (h : ∀ n s, P (n + 1) s → (body s).Ensures (fun _ => P n) R) (n : Nat) (s : State) (hs : P n s) :
    (repeatTimes body n s).Ensures (fun _ => P 0) R := by
  induction n generalizing s with
  | zero => exact hs
  | succ n ih => exact (h n s hs).andThen fun _ t ht => ih t ht

end Ensures

section Nodes

/-- The symbols the arena's nodes carry, in node order. -/
def symbolsHeld (arena : List Node) : List Symbol := arena.filterMap fun nd => symbolOf nd.sym

@[simp] theorem symbolsHeld_append (a b : List Node) : symbolsHeld (a ++ b) = symbolsHeld a ++ symbolsHeld b :=
  List.filterMap_append

@[simp] theorem symbolsHeld_sent (l r : Option NodeIdx) (p : Prio) : symbolsHeld [⟨Config.sent, l, r, p⟩] = [] := rfl

@[simp] theorem symbolsHeld_symbol (c : Symbol) (l r : Option NodeIdx) (p : Prio) :
    symbolsHeld [⟨symByte c, l, r, p⟩] = [c] := by
  simp [symbolsHeld]

@[simp] theorem childList_append (a b : List Node) : childList (a ++ b) = childList a ++ childList b :=
  List.flatMap_append

@[simp] theorem childList_single (nd : Node) : childList [nd] = nd.children := by simp [childList]

theorem children_eq_nil {nd : Node} : nd.children = [] ↔ nd.isLeaf = true := by
  obtain ⟨_, l, r, _⟩ := nd
  cases l <;> cases r <;> simp [Node.children, Node.isLeaf]

/-- A node of the arena has its children among the child links. -/
theorem mem_childList {arena : List Node} {n : Nat} {nd : Node} {c : NodeIdx} (hn : arena[n]? = some nd)
    (hc : c ∈ nd.children) : c ∈ childList arena :=
  List.mem_flatMap.2 ⟨nd, List.mem_of_getElem? hn, hc⟩

theorem getElem?_snoc {α : Type} {l : List α} {a b : α} {n : Nat} :
    (l ++ [a])[n]? = some b ↔ l[n]? = some b ∨ (n = l.length ∧ a = b) := by
  rw [List.getElem?_append]
  split_ifs with h
  · simp [h.ne]
  · have hnone : l[n]? = none := List.getElem?_eq_none (not_lt.1 h)
    rw [hnone]
    rw [List.getElem?_singleton]
    split_ifs <;> simp <;> omega

end Nodes

section Invariants

/-- The scheduler and the arena together are in order. -/
structure BuildInv (s : State) : Prop where
  sched : SchedInv s
  arena : ArenaInv s

/-- The scheduler's invariant speaks of `H`, `HSEQ` and `NN` only. -/
theorem SchedInv.of_eq {s t : State} (h : SchedInv s) (hh : t.heap = s.heap) (hq : t.hseq = s.hseq)
    (ha : t.arena = s.arena) : SchedInv t := by
  obtain ⟨ho, hc, he, hs, hp⟩ := h
  constructor <;> simpa only [State.nn, State.hn, hh, hq, ha]

/-- With no entry held the scheduler is in order. -/
theorem SchedInv.of_empty {s : State} (h : s.heap = []) : SchedInv s := by
  constructor <;> simp [h, prioSum, HeapOrdered]

/-- The arena's invariant speaks of `N`, `H`, `ROOT` and `TREE_VALID` only, and holds on when the tree is dropped. -/
theorem ArenaInv.of_eq {s t : State} (h : ArenaInv s) (ha : t.arena = s.arena) (hh : t.heap = s.heap)
    (hr : t.root = s.root) (hv : t.treeValid = true → s.treeValid = true) : ArenaInv t := by
  obtain ⟨hc, hi, ho, hs, hf, ht⟩ := h
  constructor <;> simp only [State.nn, ha, hh, hr]
  exacts [hc, hi, ho, hs, hf, fun hv' => ht (hv hv')]

theorem BuildInv.of_eq {s t : State} (h : BuildInv s) (hh : t.heap = s.heap) (hq : t.hseq = s.hseq)
    (ha : t.arena = s.arena) (hr : t.root = s.root) (hv : t.treeValid = true → s.treeValid = true) : BuildInv t :=
  ⟨h.sched.of_eq hh hq ha, h.arena.of_eq ha hh hr hv⟩

end Invariants

section Queue

theorem prioSum_cons (e : Entry) (h : List Entry) : prioSum (e :: h) = e.prio.toNat + prioSum h := by simp [prioSum]

theorem prioSum_perm {h h' : List Entry} (hp : h.Perm h') : prioSum h = prioSum h' := (hp.map _).sum_eq

/-- Entries with different sequence numbers have different keys (R141). -/
theorem keys_nodup {h : List Entry} (hs : (h.map Entry.seq).Nodup) : (h.map Entry.key).Nodup := by
  have hkey : ∀ e : Entry, BitVec.ofNat 8 e.key = e.seq := fun e => by
    apply BitVec.eq_of_toNat_eq
    simp only [Entry.key, BitVec.toNat_ofNat]
    omega
  refine List.Nodup.of_map (BitVec.ofNat 8) ?_
  simpa [Function.comp_def, hkey] using hs

/-- The entries held are in order, and belong to nodes below `bound` (R31, R161, R162). -/
structure QueueInv (h : List Entry) (bound : Nat) : Prop where
  ordered : HeapOrdered h
  entries : ∀ e ∈ h, e.root.toNat = e.seq.toNat ∧ e.seq.toNat < bound
  seqs : (h.map Entry.seq).Nodup

variable {h rest : List Entry} {n : Nat} {e : Entry}

theorem SchedInv.queue {s : State} (hs : SchedInv s) : QueueInv s.heap s.nn := ⟨hs.ordered, hs.entries, hs.seqs⟩

theorem QueueInv.nil : QueueInv [] n := by
  constructor <;> simp [HeapOrdered]

theorem QueueInv.insert (hq : QueueInv h n) (hr : e.root.toNat = n) (hs : e.seq.toNat = n) :
    QueueInv (heapInsert e h) (n + 1) := by
  have hp := heapInsert_perm e h
  have hseqs : ((e :: h).map Entry.seq).Nodup := by
    refine List.nodup_cons.2 ⟨fun hm => ?_, hq.seqs⟩
    obtain ⟨d, hd, hde⟩ := List.mem_map.1 hm
    have := (hq.entries d hd).2
    rw [hde] at this
    omega
  refine ⟨heapInsert_ordered hq.ordered (keys_nodup hseqs), fun d hd => ?_, (hp.map _).nodup_iff.2 hseqs⟩
  obtain rfl | hd := List.mem_cons.1 (hp.mem_iff.1 hd)
  · omega
  · have := hq.entries d hd
    omega

theorem QueueInv.pop (hq : QueueInv (e :: rest) n) : QueueInv (heapPop rest) n := by
  have hp := heapPop_perm rest
  have hseqs := (List.nodup_cons.1 hq.seqs).2
  exact ⟨heapPop_ordered hq.ordered (keys_nodup hseqs),
    fun d hd => hq.entries d (List.mem_cons_of_mem e (hp.mem_iff.1 hd)), (hp.map _).nodup_iff.2 hseqs⟩

/-- Different entries belong to different nodes. -/
theorem QueueInv.roots_nodup (hq : QueueInv h n) : (h.map Entry.root).Nodup := by
  have hs := List.inj_on_of_nodup_map hq.seqs
  refine List.Nodup.map_on (fun d hd e he hde => hs hd he ?_) hq.seqs.of_map
  have h1 := (hq.entries d hd).1
  have h2 := (hq.entries e he).1
  rw [hde] at h1
  exact BitVec.eq_of_toNat_eq (by omega)

end Queue

section Operations

variable {Q : NodeIdx → State → Prop} {R : State → Prop}

theorem alloc_ensures {nd : Node} {s : State} (hr : s.nn = Config.nodeCap → R s)
    (hq : s.nn ≠ Config.nodeCap → Q (BitVec.ofNat 14 s.nn) { s with arena := s.arena ++ [nd] }) :
    (alloc nd s).Ensures Q R := by
  unfold alloc
  split
  · exact hr (by assumption)
  · exact hq (by assumption)

theorem insert_ensures {P : Unit → State → Prop} {r : NodeIdx} {p : Prio} {s : State} (hr : s.hn = Config.heapCap → R s)
    (hq : s.hn ≠ Config.heapCap →
      P () { s with heap := heapInsert ⟨p, s.hseq, r⟩ s.heap, hseq := s.hseq + 1#8 }) :
    (insert r p s).Ensures P R := by
  unfold insert
  split
  · exact hr (by assumption)
  · exact hq (by assumption)

theorem removeMin_ensures {P : Entry → State → Prop} {s : State} (hr : s.heap = [] → R s)
    (hq : ∀ e rest, s.heap = e :: rest → P e { s with heap := heapPop rest }) : (removeMin s).Ensures P R := by
  unfold removeMin
  split
  · exact hr (by assumption)
  · exact hq _ _ (by assumption)

theorem readNode_ensures {P : Node → State → Prop} {n : NodeIdx} {s : State}
    (hq : ∀ nd, nodeAt s.arena n = some nd → P nd s) : (readNode n s).Ensures P R := by
  unfold readNode
  split
  · exact hq _ (by assumption)
  · trivial

end Operations

section Seeding

/-- The state one iteration of `HSEED` leaves (R161). -/
def seeded (c : Symbol) (s : State) : State :=
  { s with
    arena := s.arena ++ [⟨symByte c, none, none, (s.freqAt c).zeroExtend 39⟩]
    heap := heapInsert ⟨(s.freqAt c).zeroExtend 39, s.hseq, BitVec.ofNat 14 s.nn⟩ s.heap
    hseq := s.hseq + 1#8 }

theorem seedLeaf_eq {c : Symbol} {s : State} (hn : s.nn ≠ Config.nodeCap) (hh : s.hn ≠ Config.heapCap) :
    seedLeaf c s = .ok () (seeded c s) := by
  simp only [seedLeaf, alloc, if_neg hn, Res.andThen_ok]
  exact if_neg hh

/-- `HSEED` between two leaves, the symbols `xs` still to come (R161). -/
structure Seeding (xs : List Symbol) (s : State) : Prop where
  queue : QueueInv s.heap s.nn
  toCome : s.nn + xs.length = 128
  held : s.hn = s.nn
  counter : s.hseq.toNat = s.nn
  sum : prioSum s.heap ≤ s.nn * (2 ^ 32 - 1)
  leaves : childList s.arena = []
  symbols : (symbolsHeld s.arena ++ xs).Nodup
  treeValid : s.treeValid = false

theorem Seeding.next {c : Symbol} {xs : List Symbol} {s : State} (hs : Seeding (c :: xs) s) : Seeding xs (seeded c s) := by
  obtain ⟨hq, hc, hh, hctr, hsum, hl, hsym, hv⟩ := hs
  rw [List.length_cons] at hc
  have hcap : Config.nodeCap = 16257 := rfl
  have hnn : (seeded c s).nn = s.nn + 1 := by simp [seeded, State.nn]
  have hprio : ((s.freqAt c).zeroExtend 39 : Prio).toNat ≤ 2 ^ 32 - 1 := by
    have := (s.freqAt c).isLt
    simp only [BitVec.zeroExtend, BitVec.toNat_setWidth]
    omega
  constructor
  · rw [hnn]
    exact hq.insert (nodeIdx_toNat (by omega)) hctr
  · omega
  · rw [hnn, ← hh]
    exact heapInsert_length _ _
  · rw [hnn, seeded, BitVec.toNat_add, hctr]
    simp
    omega
  · rw [hnn, seeded, prioSum_perm (heapInsert_perm _ _), prioSum_cons]
    dsimp only
    omega
  · simp [seeded, hl, Node.children]
  · simpa [seeded] using hsym
  · exact hv

theorem seedLeaf_ensures (c : Symbol) (xs : List Symbol) (s : State) (hs : Seeding (c :: xs) s) :
    (seedLeaf c s).Ensures (fun _ => Seeding xs) Res.NoRaise := by
  have hc := hs.toCome
  have hh := hs.held
  rw [List.length_cons] at hc
  rw [seedLeaf_eq (show s.nn ≠ 16257 by omega) (show s.hn ≠ 128 by omega)]
  exact hs.next

/-- The 128 seeded leaves are in order. -/
theorem Seeding.buildInv {s : State} (hs : Seeding [] s) : BuildInv s ∧ s.hn = 128 := by
  obtain ⟨hq, hc, hh, hctr, hsum, hl, hsym, hv⟩ := hs
  rw [List.append_nil] at hsym
  have hn : s.nn = 128 := hc
  have hcap : Config.nodeCap = 16257 := rfl
  have hleaf : ∀ (n : Nat) nd, s.arena[n]? = some nd → nd.children = [] := fun n nd hnd =>
    List.eq_nil_iff_forall_not_mem.2 fun c hc => by simpa [hl] using mem_childList hnd hc
  refine ⟨⟨⟨hq.ordered, .inr (by omega), hq.entries, hq.seqs, by omega⟩, ?_⟩, by omega⟩
  constructor
  · omega
  · simp [hl]
  · simp [hl]
  · exact hsym
  · exact fun _ => ⟨by simp [hl], fun n nd hnd => ⟨fun _ => children_eq_nil.1 (hleaf n nd hnd), by simp [hleaf n nd hnd]⟩⟩
  · simp [hv]

theorem hseedRule_ensures (s : State) : (hseedRule s).Ensures (fun _ t => BuildInv t ∧ t.hn = 128) Res.NoRaise := by
  refine (forEach_ensures seedLeaf_ensures symbols _ ?_).mono (fun _ _ h => h.buildInv) (fun _ h => h)
  refine ⟨QueueInv.nil, by simp [State.nn, symbols], rfl, rfl, by simp [prioSum], rfl, ?_, rfl⟩
  simpa [symbolsHeld, symbols] using List.nodup_finRange 128

end Seeding

section Merging

/-- The two entries a merge takes, and what it leaves of the queue. -/
theorem takeTwo_perm {h rest rest' : List Entry} {e1 e2 : Entry} (h1 : h = e1 :: rest) (h2 : heapPop rest = e2 :: rest') :
    h.Perm (e1 :: e2 :: heapPop rest') := by
  rw [h1]
  exact ((heapPop_perm rest).symm.trans (h2 ▸ ((heapPop_perm rest').symm.cons e2))).cons e1

/-- The state a merge leaves of two entries with the others in `q` (R162). -/
def merged (s : State) (e1 e2 : Entry) (q : List Entry) : State :=
  { s with
    heap := heapInsert ⟨e1.prio + e2.prio, s.hseq, BitVec.ofNat 14 s.nn⟩ q
    hseq := s.hseq + 1#8
    arena := s.arena ++ [⟨Config.sent, some e1.root, some e2.root, e1.prio + e2.prio⟩] }

section

variable {s : State} {e1 e2 : Entry} {q : List Entry}

theorem merged_nn : (merged s e1 e2 q).nn = s.nn + 1 := by simp [merged, State.nn]

theorem merged_hn (hp : s.heap.Perm (e1 :: e2 :: q)) : (merged s e1 e2 q).hn + 1 = s.hn := by
  have := hp.length_eq
  simp [merged, State.hn, heapInsert_length, this]

theorem merged_sched (hs : SchedInv s) (hp : s.heap.Perm (e1 :: e2 :: q)) (hq : QueueInv q s.nn) :
    SchedInv (merged s e1 e2 q) := by
  have hlen : s.hn = q.length + 2 := hp.length_eq
  have hc : 128 ≤ s.nn ∧ s.hn + s.nn = 256 ∧ s.hseq.toNat = s.nn :=
    hs.counts.resolve_left fun h0 => by simp [State.hn, h0] at hlen
  have hcap : Config.nodeCap = 16257 := rfl
  have hqueue : QueueInv (merged s e1 e2 q).heap (merged s e1 e2 q).nn := by
    rw [merged_nn]
    exact hq.insert (nodeIdx_toNat (by omega)) hc.2.2
  refine ⟨hqueue.ordered, .inr ?_, hqueue.entries, hqueue.seqs, ?_⟩
  · have hhn := merged_hn hp
    have hseq : (merged s e1 e2 q).hseq.toNat = s.nn + 1 := by
      simp only [merged, BitVec.toNat_add, hc.2.2]
      simp
      omega
    rw [merged_nn, hseq]
    omega
  · have hsum := hs.sum
    rw [prioSum_perm hp, prioSum_cons, prioSum_cons] at hsum
    rw [merged, prioSum_perm (heapInsert_perm _ _), prioSum_cons]
    simp only [BitVec.toNat_add]
    omega

theorem merged_arena (hb : BuildInv s) (hp : s.heap.Perm (e1 :: e2 :: q)) : ArenaInv (merged s e1 e2 q) := by
  obtain ⟨hs, ha⟩ := hb
  have hlen : s.hn = q.length + 2 := hp.length_eq
  have hne : s.heap ≠ [] := fun h0 => by simp [State.hn, h0] at hlen
  obtain ⟨h128, htotal, hctr⟩ := hs.counts.resolve_left hne
  have hcap : Config.nodeCap = 16257 := rfl
  have hidx : (BitVec.ofNat 14 s.nn).toNat = s.nn := nodeIdx_toNat (by omega)
  obtain ⟨hroots, holder⟩ := ha.forest hne
  have hmem : ∀ e, e ∈ s.heap ↔ e = e1 ∨ e = e2 ∨ e ∈ q := fun e => by simp [hp.mem_iff]
  have hlt : ∀ e ∈ s.heap, e.root.toNat < s.nn := fun e he => by have := hs.entries e he; omega
  have hdiff : (e1 :: e2 :: q).map Entry.root |>.Nodup := (hp.map _).nodup_iff.1 hs.queue.roots_nodup
  have hlinks : childList (merged s e1 e2 q).arena = childList s.arena ++ [e1.root, e2.root] := by
    simp [merged, Node.children]
  have h1 := hroots e1 ((hmem e1).2 (.inl rfl))
  have h2 := hroots e2 ((hmem e2).2 (.inr (.inl rfl)))
  have hl1 := hlt e1 ((hmem e1).2 (.inl rfl))
  have hl2 := hlt e2 ((hmem e2).2 (.inr (.inl rfl)))
  simp only [List.map_cons, List.nodup_cons, List.mem_cons, not_or] at hdiff
  obtain ⟨⟨hd12, hd1⟩, hd2, -⟩ := hdiff
  have hin : ∀ c ∈ childList (merged s e1 e2 q).arena, c.toNat < s.nn := by
    rw [hlinks]
    intro c hc
    simp only [List.mem_append, List.mem_cons, List.not_mem_nil, or_false] at hc
    obtain hc | rfl | rfl := hc
    exacts [ha.inRange c hc, hl1, hl2]
  constructor
  · rw [merged_nn]
    omega
  · rw [merged_nn]
    exact fun c hc => Nat.lt_succ_of_lt (hin c hc)
  · rw [hlinks]
    simp [List.nodup_append, ha.oneParent, hd12]
    grind
  · have hheld : symbolsHeld (merged s e1 e2 q).arena = symbolsHeld s.arena := by simp [merged]
    exact (congrArg List.Nodup hheld).mpr ha.symbolsOnce
  · refine fun _ => ⟨fun e he => ?_, fun n nd hnd => ?_⟩
    · obtain rfl | he := List.mem_cons.1 ((heapInsert_perm _ _).mem_iff.1 he)
      · exact fun hmem => absurd (hin _ hmem) (by rw [hidx]; exact lt_irrefl _)
      · have hr := List.mem_map_of_mem (f := Entry.root) he
        have := hroots e ((hmem e).2 (.inr (.inr he)))
        rw [hlinks]
        simp only [List.mem_append, List.mem_cons, List.not_mem_nil, or_false, not_or]
        exact ⟨this, fun h => hd1 (h ▸ hr), fun h => hd2 (h ▸ hr)⟩
    · obtain hold | ⟨rfl, rfl⟩ := getElem?_snoc.1 hnd
      · exact holder n nd hold
      · refine ⟨fun h => absurd h (not_lt.2 h128), ?_⟩
        simpa [Node.children] using ⟨hl1, hl2⟩
  · intro hv
    exact absurd (ha.tree hv).1 hne

theorem hmergeRule_eq {rest rest' : List Entry} (h1 : s.heap = e1 :: rest) (h2 : heapPop rest = e2 :: rest')
    (hn : s.nn ≠ Config.nodeCap) (hh : s.hn ≤ Config.heapCap) : hmergeRule s = .ok () (merged s e1 e2 (heapPop rest')) := by
  have hp := (takeTwo_perm h1 h2).length_eq
  have h2' : ¬ s.hn < 2 := by simp [State.hn, hp]
  have hr : removeMin { s with heap := heapPop rest } = .ok e2 { s with heap := heapPop rest' } :=
    removeMin_eq_ok.2 ⟨rest', h2, rfl⟩
  have hfull : (heapPop rest').length ≠ Config.heapCap := by
    simp only [State.hn, hp, List.length_cons] at hh
    omega
  rw [hmergeRule, if_neg h2', removeMin_eq_ok.2 ⟨rest, h1, rfl⟩, Res.andThen_ok, hr, Res.andThen_ok]
  simp only [alloc, show ¬ State.nn { s with heap := heapPop rest' } = Config.nodeCap from hn, if_false, Res.andThen_ok]
  exact if_neg hfull

end

/-- A merge of two entries or more ends with the scheduler and the arena in order (R162). -/
theorem hmergeRule_ensures {s : State} (hb : BuildInv s) (h2 : 2 ≤ s.hn) :
    (hmergeRule s).Ensures (fun _ t => BuildInv t ∧ t.hn + 1 = s.hn) Res.NoRaise := by
  obtain ⟨e1, rest, h1⟩ := List.exists_cons_of_length_pos (show 0 < s.heap.length by rw [State.hn] at h2; omega)
  have hlen : (heapPop rest).length + 1 = s.hn := by rw [heapPop_length, State.hn, h1, List.length_cons]
  obtain ⟨e2, rest', hpop⟩ := List.exists_cons_of_length_pos (show 0 < (heapPop rest).length by omega)
  have hc := hb.sched.counts.resolve_left (by simp [h1])
  have hcap : Config.nodeCap = 16257 := rfl
  have hhcap : Config.heapCap = 128 := rfl
  have hp := takeTwo_perm h1 hpop
  have hq : QueueInv (heapPop rest') s.nn := by
    have hq1 := hb.sched.queue
    rw [h1] at hq1
    exact (hpop ▸ hq1.pop).pop
  rw [hmergeRule_eq h1 hpop (by omega) (by omega)]
  exact ⟨⟨merged_sched hb.sched hp hq, merged_arena hb hp⟩, merged_hn hp⟩

/-- `HMERGE` keeps the scheduler and the arena in order, and with too few entries faults before any change (R162, R312). -/
theorem hmergeRule_keeps {s : State} (hb : BuildInv s) : (hmergeRule s).Ensures (fun _ => BuildInv) BuildInv := by
  by_cases h2 : 2 ≤ s.hn
  · exact (hmergeRule_ensures hb h2).mono (fun _ _ h => h.1) (fun _ h => h.elim)
  · rw [hmergeRule, if_pos (not_le.1 h2)]
    exact hb

end Merging

section Taking

/-- How high a node of a build can stand over the leaves: every merge is one level at most (R166). -/
def buildRank (n : Nat) : Nat := n - 127

theorem buildRank_le {n : Nat} (h : n < 255) : buildRank n ≤ 127 := by unfold buildRank; omega

theorem buildRank_lt {m n : Nat} (h : m < n) (hn : 128 ≤ n) : buildRank m < buildRank n := by unfold buildRank; omega

/-- The state `HTAKE` leaves with the last entry taken (R163). -/
def taken (s : State) (e : Entry) : State :=
  { s with heap := [], root := e.root, tableValid := false, treeValid := true }

theorem htakeRule_eq {s : State} {e : Entry} (h : s.heap = [e]) : htakeRule s = .ok () (taken s e) := by
  have hn : s.hn = 1 := by simp [State.hn, h]
  rw [htakeRule, if_neg (by omega), if_neg (by omega), removeMin_eq_ok.2 ⟨[], h, rfl⟩]
  rfl

theorem taken_buildInv {s : State} {e : Entry} (hb : BuildInv s) (h : s.heap = [e]) : BuildInv (taken s e) := by
  obtain ⟨hs, ha⟩ := hb
  have hn : s.hn = 1 := by simp [State.hn, h]
  have hc := hs.counts.resolve_left (by simp [h])
  have he := hs.entries e (by simp [h])
  obtain ⟨hroots, holder⟩ := ha.forest (by simp [h])
  refine ⟨.of_empty rfl, ha.cap, ha.inRange, ha.oneParent, ha.symbolsOnce, fun h0 => absurd rfl h0, fun _ => ⟨rfl, ?_, ?_, ?_⟩⟩
  · exact he.1 ▸ he.2
  · exact hroots e (by simp [h])
  · have hlow : e.root.toNat < 255 := by omega
    refine ⟨buildRank, buildRank_le hlow, fun n nd hnd c hc => ?_⟩
    have hn128 : 128 ≤ n := by
      by_contra h0
      rw [children_eq_nil.2 ((holder n nd hnd).1 (not_le.1 h0))] at hc
      exact absurd hc List.not_mem_nil
    exact buildRank_lt ((holder n nd hnd).2 c hc) hn128

/-- `HTAKE` with one entry ends with a valid tree (R163). -/
theorem htakeRule_ensures {s : State} (hb : BuildInv s) (h1 : s.hn = 1) :
    (htakeRule s).Ensures (fun _ => BuildInv) Res.NoRaise := by
  obtain ⟨e, he⟩ := List.length_eq_one_iff.1 h1
  rw [htakeRule_eq he]
  exact taken_buildInv hb he

theorem htakeRule_keeps {s : State} (hb : BuildInv s) : (htakeRule s).Ensures (fun _ => BuildInv) BuildInv := by
  obtain h0 | h1 | h2 : s.hn = 0 ∨ s.hn = 1 ∨ 1 < s.hn := by omega
  · rw [htakeRule, if_pos h0]
    exact hb
  · exact (htakeRule_ensures hb h1).mono (fun _ _ h => h) (fun _ h => h.elim)
  · rw [htakeRule, if_neg (by omega), if_pos h2]
    exact hb

/-- One merge fewer than entries leaves one entry (R164). -/
theorem merges_ensure (k : Nat) (s : State) (hb : BuildInv s ∧ s.hn = k + 1) :
    (repeatTimes hmergeRule k s).Ensures (fun _ t => BuildInv t ∧ t.hn = 1) Res.NoRaise :=
  repeatTimes_ensures (P := fun k t => BuildInv t ∧ t.hn = k + 1) (fun k t ht =>
    (hmergeRule_ensures ht.1 (by omega)).mono (fun _ u hu => ⟨hu.1, by omega⟩) fun _ h => h) k s hb

/-- From any state `BUILD` ends without a fault, with the scheduler and the arena in order (R164, R165). -/
theorem buildRule_ensures (s : State) : (buildRule s).Ensures (fun _ => BuildInv) Res.NoRaise := by
  refine (hseedRule_ensures s).andThen fun _ t ht => ?_
  refine (merges_ensure Config.nmerge t ⟨ht.1, ?_⟩).andThen fun _ u hu => ?_
  · rw [ht.2]; rfl
  · exact htakeRule_ensures hu.1 hu.2

end Taking

end Sys2Proof.Machine
end

section
/-! SUPPORT. `RECON` (spec/45_reconstruct.md R211, R212): a table of codes of at most 127 bits grows a strict tree, and a
`NODE_FULL` in the middle leaves an arena in order without a valid tree. -/

namespace Sys2Proof.Machine

section SetNode

/-- A node of the arena written again: what stands before it and after it stays. -/
theorem exists_split_set {arena : List Node} {n : NodeIdx} {nd : Node} (h : nodeAt arena n = some nd) :
    ∃ a b, arena = a ++ nd :: b ∧ ∀ nd', arena.set n.toNat nd' = a ++ nd' :: b := by
  obtain ⟨hlt, rfl⟩ := List.getElem?_eq_some_iff.1 h
  exact ⟨arena.take n.toNat, arena.drop (n.toNat + 1), by simp,
    fun nd' => List.set_eq_take_append_cons_drop .. |>.trans (if_pos hlt)⟩

/-- What stands at a place of a list written at one place. -/
theorem getElem?_set_cases {α : Type} {l : List α} {a x : α} {i j : Nat} (h : (l.set i a)[j]? = some x) :
    (j = i ∧ x = a) ∨ l[j]? = some x := by
  obtain rfl | hne := eq_or_ne i j
  · rw [List.getElem?_set_self'] at h
    exact .inl ⟨rfl, by cases hl : l[i]? <;> simp_all⟩
  · exact .inr (by rwa [List.getElem?_set_ne hne] at h)

/-- A child put where none is adds one link. -/
theorem children_setChild {nd : Node} {bit : Bool} (c : NodeIdx) (h : nd.child bit = none) :
    (nd.setChild bit c).children.Perm (c :: nd.children) := by
  obtain ⟨_, l, r, _⟩ := nd
  cases bit <;> cases l <;> cases r <;> simp_all [Node.child, Node.setChild, Node.children, List.Perm.swap]

@[simp] theorem setChild_sym (nd : Node) (bit : Bool) (c : NodeIdx) : (nd.setChild bit c).sym = nd.sym := by
  cases bit <;> rfl

theorem childList_cons (nd : Node) (arena : List Node) : childList (nd :: arena) = nd.children ++ childList arena := rfl

theorem symbolsHeld_cons (nd : Node) (arena : List Node) :
    symbolsHeld (nd :: arena) = (symbolOf nd.sym).toList ++ symbolsHeld arena := by
  cases h : symbolOf nd.sym <;> simp [symbolsHeld, h]

variable {arena : List Node} {n : NodeIdx} {nd : Node}

theorem childList_setChild {bit : Bool} (c : NodeIdx) (h : nodeAt arena n = some nd) (hb : nd.child bit = none) :
    (childList (arena.set n.toNat (nd.setChild bit c))).Perm (c :: childList arena) := by
  obtain ⟨a, b, rfl, hset⟩ := exists_split_set h
  rw [hset]
  simp only [childList_append, childList_cons]
  exact ((children_setChild c hb).append_right _).append_left _ |>.trans List.perm_middle

theorem symbolsHeld_setChild (bit : Bool) (c : NodeIdx) (h : nodeAt arena n = some nd) :
    symbolsHeld (arena.set n.toNat (nd.setChild bit c)) = symbolsHeld arena := by
  obtain ⟨a, b, rfl, hset⟩ := exists_split_set h
  simp [hset, symbolsHeld_cons]

theorem childList_setSym (b : Byte) (h : nodeAt arena n = some nd) :
    childList (arena.set n.toNat { nd with sym := b }) = childList arena := by
  obtain ⟨a, b, rfl, hset⟩ := exists_split_set h
  simp [hset, childList_cons, Node.children]

/-- A symbol put on a node takes the place of the one the node had. -/
theorem symbolsHeld_setSym (c : Symbol) (h : nodeAt arena n = some nd) :
    ∃ held, held.Sublist (symbolsHeld arena) ∧
      (symbolsHeld (arena.set n.toNat { nd with sym := symByte c })).Perm (c :: held) := by
  obtain ⟨a, b, rfl, hset⟩ := exists_split_set h
  refine ⟨symbolsHeld a ++ symbolsHeld b, ?_, ?_⟩
  · rw [symbolsHeld_append, symbolsHeld_cons]
    exact (List.sublist_append_right _ _).append_left _
  · simp only [hset, symbolsHeld_append, symbolsHeld_cons, symbolOf_symByte]
    exact List.perm_middle

end SetNode

section Growing

/-- The nodes are ranked: the root at 127, every child one below its parent (R212). -/
structure Ranked (arena : List Node) (rank : Nat → Nat) : Prop where
  root : rank 0 = 127
  down : ∀ n nd, arena[n]? = some nd → ∀ c ∈ nd.children, rank c.toNat + 1 = rank n

/-- `RECON` at the node `cur`, from which `k` bits of the code may still be walked, the symbols `xs` still to come. -/
structure Growing (xs : List Symbol) (k : Nat) (cur : NodeIdx) (s : State) : Prop where
  cap : s.nn ≤ Config.nodeCap
  here : cur.toNat < s.nn
  links : ∀ c ∈ childList s.arena, 0 < c.toNat ∧ c.toNat < s.nn
  oneParent : (childList s.arena).Nodup
  symbols : (symbolsHeld s.arena ++ xs).Nodup
  ranked : ∃ rank, Ranked s.arena rank ∧ k ≤ rank cur.toNat
  codes : ∀ c : Symbol, (s.codeAt c).length ≤ 127
  empty : s.heap = []
  treeValid : s.treeValid = false

variable {xs : List Symbol} {k : Nat} {cur : NodeIdx} {s : State}

/-- Wherever the walk stands, it can begin again at the root. -/
theorem Growing.atRoot (h : Growing xs k cur s) : Growing xs 127 0#14 s := by
  obtain ⟨hcap, hhere, hlinks, hone, hsym, ⟨rank, hr, -⟩, hcodes, he, hv⟩ := h
  exact ⟨hcap, by simp; omega, hlinks, hone, hsym, ⟨rank, hr, hr.root.ge⟩, hcodes, he, hv⟩

theorem Growing.buildInv (h : Growing xs k cur s) : BuildInv s := by
  obtain ⟨hcap, -, hlinks, hone, hsym, -, -, he, hv⟩ := h
  exact ⟨.of_empty he, hcap, fun c hc => (hlinks c hc).2, hone, (List.nodup_append.1 hsym).1,
    fun h0 => absurd he h0, fun h0 => by simp [hv] at h0⟩

/-- A symbol with an empty code is passed over. -/
theorem Growing.skip {c : Symbol} (h : Growing (c :: xs) k cur s) : Growing xs k cur s := by
  obtain ⟨hcap, hhere, hlinks, hone, hsym, hrank, hcodes, he, hv⟩ := h
  exact ⟨hcap, hhere, hlinks, hone, hsym.sublist ((List.sublist_cons_self c xs).append_left _), hrank, hcodes, he, hv⟩

/-- The walk goes on to a child that is there. -/
theorem Growing.down {nd : Node} {bit : Bool} {n : NodeIdx} (h : Growing xs (k + 1) cur s)
    (hnd : nodeAt s.arena cur = some nd) (hn : nd.child bit = some n) : Growing xs k n s := by
  obtain ⟨hcap, hhere, hlinks, hone, hsym, ⟨rank, hr, hk⟩, hcodes, he, hv⟩ := h
  have hc : n ∈ nd.children := by
    cases bit <;> simp_all [Node.child, Node.children]
  refine ⟨hcap, (hlinks n (mem_childList hnd hc)).2, hlinks, hone, hsym, ⟨rank, hr, ?_⟩, hcodes, he, hv⟩
  have := hr.down _ nd hnd n hc
  omega

/-- The state with a fresh node as the child of `cur` that `bit` leads to (R211). -/
def grown (s : State) (cur : NodeIdx) (nd : Node) (bit : Bool) : State :=
  { s with arena := (s.arena ++ [freshNode]).set cur.toNat (nd.setChild bit (BitVec.ofNat 14 s.nn)) }

/-- The walk goes on to a child made for it. -/
theorem Growing.grow {nd : Node} {bit : Bool} (h : Growing xs (k + 1) cur s) (hfull : s.nn ≠ Config.nodeCap)
    (hnd : nodeAt s.arena cur = some nd) (hn : nd.child bit = none) :
    Growing xs k (BitVec.ofNat 14 s.nn) (grown s cur nd bit) := by
  obtain ⟨hcap, hhere, hlinks, hone, hsym, ⟨rank, hr, hk⟩, hcodes, he, hv⟩ := h
  have hidx := nodeIdx_toNat hcap
  have hnd' : nodeAt (s.arena ++ [freshNode]) cur = some nd := by
    rw [nodeAt, List.getElem?_append_left hhere]
    exact hnd
  have hkids : (childList (grown s cur nd bit).arena).Perm (BitVec.ofNat 14 s.nn :: childList s.arena) := by
    simpa [grown, freshNode, Node.children] using childList_setChild (BitVec.ofNat 14 s.nn) hnd' hn
  have hold : ∀ c ∈ childList s.arena, c.toNat ≠ s.nn := fun c hc => (hlinks c hc).2.ne
  have hnn : (grown s cur nd bit).nn = s.nn + 1 := by simp [grown, State.nn]
  have hroot : 0 ≠ s.nn := by omega
  refine ⟨?_, ?_, ?_, ?_, ?_, ⟨Function.update rank s.nn (rank cur.toNat - 1), ⟨?_, ?_⟩, ?_⟩, hcodes, he, hv⟩
  · rw [hnn]
    exact Nat.lt_of_le_of_ne hcap hfull
  · rw [hnn, hidx]
    exact Nat.lt_succ_self _
  · intro c hc
    rw [hnn]
    obtain rfl | hc := List.mem_cons.1 (hkids.mem_iff.1 hc)
    · rw [hidx]
      omega
    · exact ⟨(hlinks c hc).1, Nat.lt_succ_of_lt (hlinks c hc).2⟩
  · exact hkids.nodup_iff.2 (List.nodup_cons.2 ⟨fun hm => hold _ hm hidx, hone⟩)
  · rw [grown, symbolsHeld_setChild bit _ hnd', symbolsHeld_append, freshNode, symbolsHeld_sent, List.append_nil]
    exact hsym
  · rw [Function.update_of_ne hroot, hr.root]
  · intro j ndj hj c hc
    obtain ⟨rfl, rfl⟩ | hj := getElem?_set_cases hj
    · rw [Function.update_of_ne hhere.ne]
      obtain rfl | hc := List.mem_cons.1 ((children_setChild _ hn).mem_iff.1 hc)
      · rw [hidx, Function.update_self]
        omega
      · rw [Function.update_of_ne (hold c (mem_childList hnd hc))]
        exact hr.down _ nd hnd c hc
    · obtain hj | ⟨-, rfl⟩ := getElem?_snoc.1 hj
      · have hlt : j < s.nn := (List.getElem?_eq_some_iff.1 hj).1
        rw [Function.update_of_ne (hold c (mem_childList hj hc)), Function.update_of_ne hlt.ne]
        exact hr.down j ndj hj c hc
      · simp [freshNode, Node.children] at hc
  · rw [hidx, Function.update_self]
    omega

/-- The end of a code's walk takes the code's symbol. -/
theorem Growing.place {c : Symbol} {nd : Node} (h : Growing (c :: xs) k cur s) (hnd : nodeAt s.arena cur = some nd) :
    Growing xs k cur (s.setNode cur { nd with sym := symByte c }) := by
  obtain ⟨hcap, hhere, hlinks, hone, hsym, ⟨rank, hr, hk⟩, hcodes, he, hv⟩ := h
  have hkids := childList_setSym (symByte c) hnd
  have hnn : (s.setNode cur { nd with sym := symByte c }).nn = s.nn := by simp [State.nn]
  obtain ⟨held, hsub, hperm⟩ := symbolsHeld_setSym c hnd
  refine ⟨?_, ?_, ?_, ?_, ?_, ⟨rank, ⟨hr.root, ?_⟩, hk⟩, hcodes, he, hv⟩
  · rwa [hnn]
  · rwa [hnn]
  · rw [hnn, State.setNode_arena, hkids]
    exact hlinks
  · rw [State.setNode_arena, hkids]
    exact hone
  · rw [State.setNode_arena, (hperm.append_right xs).nodup_iff, List.cons_append, ← List.perm_middle.nodup_iff]
    exact hsym.sublist (hsub.append_right _)
  · intro j ndj hj c hc
    obtain ⟨rfl, rfl⟩ | hj := getElem?_set_cases hj
    · exact hr.down _ nd hnd c hc
    · exact hr.down j ndj hj c hc

/-- A step of the walk, with a bit to spare (R211). -/
theorem growStep_ensures (bit : Bool) (h : Growing xs (k + 1) cur s) :
    (growStep cur bit s).Ensures (fun n => Growing xs k n) BuildInv := by
  refine (readNode_ensures (P := fun nd t => nodeAt s.arena cur = some nd ∧ t = s) fun _ hnd => ⟨hnd, rfl⟩).andThen ?_
  rintro nd _ ⟨hnd, rfl⟩
  cases hn : nd.child bit with
  | some n => exact h.down hnd hn
  | none =>
    refine (alloc_ensures (Q := fun n t => Growing xs k n (t.setNode cur (nd.setChild bit n))) (fun _ => h.buildInv)
      fun hfull => h.grow hfull hnd hn).andThen fun n t ht => ht

/-- The walk of a code no longer than the bits to spare (R211). -/
theorem growPath_ensures (path : Code) (hk : path.length ≤ k) (h : Growing xs k cur s) :
    (growPath path cur s).Ensures (fun n t => ∃ j, Growing xs j n t) BuildInv := by
  induction path generalizing k cur s with
  | nil => exact ⟨k, h⟩
  | cons bit rest ih =>
    obtain ⟨j, rfl⟩ : ∃ j, k = j + 1 := ⟨k - 1, by rw [List.length_cons] at hk; omega⟩
    exact (growStep_ensures bit h).andThen fun n t ht => ih (Nat.le_of_succ_le_succ hk) ht

/-- One symbol's iteration (R211): an empty code does nothing. -/
theorem growSymbol_ensures (c : Symbol) (xs : List Symbol) (s : State) (h : Growing (c :: xs) 127 0#14 s) :
    (growSymbol 0#14 c s).Ensures (fun _ => Growing xs 127 0#14) BuildInv := by
  rw [growSymbol]
  split
  · exact h.skip
  · refine (growPath_ensures _ (h.codes c) h).andThen ?_
    rintro cur t ⟨j, ht⟩
    refine (readNode_ensures (P := fun nd u => nodeAt t.arena cur = some nd ∧ u = t) fun _ hnd => ⟨hnd, rfl⟩).andThen ?_
    rintro nd _ ⟨hnd, rfl⟩
    exact (ht.place hnd).atRoot

/-- The tree `RECON` ends with is a valid one (R212). -/
theorem Growing.finish (h : Growing [] 127 0#14 s) : BuildInv ({ s with root := 0#14 }.setTreeValid true) := by
  obtain ⟨hcap, hhere, hlinks, hone, hsym, ⟨rank, hr, hk⟩, hcodes, he, hv⟩ := h
  rw [List.append_nil] at hsym
  refine ⟨.of_empty he, hcap, fun c hc => (hlinks c hc).2, hone, hsym, fun h0 => absurd he h0, fun _ => ⟨he, hhere, ?_, ?_⟩⟩
  · exact fun h0 => absurd (hlinks _ h0).1 (lt_irrefl _)
  · exact ⟨rank, hr.root.le, fun n nd hnd c hc => Nat.lt_of_succ_le (hr.down n nd hnd c hc).le⟩

/-- The state `RECON` makes its root in (R211). -/
def cleared (s : State) : State := { s.setTreeValid false with arena := [], heap := [] }

theorem Growing.begin (hc : ∀ c : Symbol, (s.codeAt c).length ≤ 127) :
    Growing Machine.symbols 127 0#14 { cleared s with arena := [freshNode] } := by
  have hkids : childList [freshNode] = [] := rfl
  refine ⟨Nat.le_of_ble_eq_true rfl, Nat.one_pos, by simp [hkids], by simp [hkids], ?_, ⟨fun _ => 127, ⟨rfl, ?_⟩, le_rfl⟩,
    hc, rfl, rfl⟩
  · exact List.nodup_finRange 128
  · intro n nd hnd c hc
    exact absurd (mem_childList hnd hc) (by simp [hkids])

/-- `RECON` on codes of at most 127 bits leaves the scheduler and the arena in order, also where it faults (R211, R311). -/
theorem reconRule_ensures (hb : BuildInv s) (hc : ∀ c : Symbol, (s.codeAt c).length ≤ 127) :
    (reconRule s).Ensures (fun _ => BuildInv) BuildInv := by
  rw [reconRule]
  split
  · exact hb
  · refine (alloc_ensures (Q := fun r t => r = 0#14 ∧ Growing symbols 127 0#14 t) (fun h => ?_)
      fun _ => ⟨rfl, .begin hc⟩).andThen ?_
    · exact absurd (show 0 = Config.nodeCap from h) (by decide)
    · rintro _ t ⟨rfl, ht⟩
      exact (forEach_ensures (P := fun xs => Growing xs 127 0#14) growSymbol_ensures symbols t ht).andThen
        fun _ u hu => hu.finish

end Growing

end Sys2Proof.Machine
end

section
/-! SUPPORT. Which elements each command can change, said once (spec/10_state.md R22 to R42): `Touches`, and the ways a
command's step ends, `Ended`. Every statement on what a command leaves unchanged is read off `exec_cases`. -/

namespace Sys2Proof.Machine

section Frames

/-- What the rules of a command, wherever they end, leave of the state they begin in. -/
def Touches : Instr → State → State → Prop
  | .nop, s, u => u = s
  | .clrerr, s, u => u = acknowledgeFault s
  | .srst, s, u => u = resetEngine s
  | .fclr, s, u => u = { s with freq := zeroFreq }
  | .analyze, s, u => ∃ f n w, u = { s with freq := f, nonascii := n, warn := w }
  | .hseed, s, u => ∃ h q a v w, u = { s with heap := h, hseq := q, arena := a, treeValid := v, tableValid := w }
  | .hmerge, s, u => ∃ h q a, u = { s with heap := h, hseq := q, arena := a }
  | .htake, s, u => ∃ h r v w, u = { s with heap := h, root := r, treeValid := v, tableValid := w }
  | .build, s, u => ∃ h q a r v w,
      u = { s with heap := h, hseq := q, arena := a, root := r, treeValid := v, tableValid := w }
  | .gen, s, u => ∃ c w, u = { s with ct := c, tableValid := w }
  | .recon, s, u => ∃ h a r v, u = { s with heap := h, arena := a, root := r, treeValid := v }
  | .hidump, s, u => ∃ bs, u = s.emit bs
  | .hiload, s, u => ∃ c v w p i b, (v = true → s.treeValid = true) ∧
      u = { s with ct := c, treeValid := v, tableValid := w, pst := p, pidx := i, pbuf := b }
  | .compress, s, u => ∃ a k i o n w bs,
      u = { s.emit bs with acc := a, wcnt := k, inBytes := i, outBytes := o, nonascii := n, warn := w }
  | .decompress, s, u => ∃ b k n bs, u = { s.emit bs with rbyte := b, rcnt := k, cur := n }

/-- How a command's step ends (R62): `BUSY` cleared, a fault taken, or between two steps of a stream command. -/
def Ended (i : Instr) (u t : State) : Prop :=
  t = u.setBusy false ∨ (∃ e w, t = takeFault e w u) ∨ (i.isStream = true ∧ (t = u ∨ t = { u with phase := .run }))

variable {i : Instr} {s t : State}

theorem emit_nil (s : State) : s.emit [] = s := by simp [State.emit]

theorem emit_emit (s : State) (bs cs : List Byte) : (s.emit bs).emit cs = s.emit (bs ++ cs) := by
  simp [State.emit]

theorem wholeStep_touches {rule : State → Res Unit} (hr : (rule s).Ensures (fun _ => Touches i s) (Touches i s))
    (h : wholeStep rule s = .next t) :
    ∃ q u, (q = s.inq ∨ i.isStream = true ∧ q = s.inq.tail) ∧ Touches i { s with inq := q } u ∧ Ended i u t := by
  obtain ⟨u, hu, rfl⟩ | ⟨e, w, u, hu, rfl⟩ := wholeStep_eq_next.1 h
  · exact ⟨s.inq, u, .inl rfl, by rwa [hu] at hr, .inl rfl⟩
  · exact ⟨s.inq, u, .inl rfl, by rwa [hu] at hr, .inr (.inl ⟨e, w, rfl⟩)⟩

theorem streamStep_touches {startRule endRule : State → Res Unit} {byteRule : Byte → State → Res Unit}
    (hi : i.isStream = true) (hrefl : ∀ s, Touches i s s)
    (hstart : ∀ s, (startRule s).Ensures (fun _ => Touches i s) (Touches i s))
    (hbyte : ∀ b s, (byteRule b s).Ensures (fun _ => Touches i s) (Touches i s))
    (hend : ∀ s, (endRule s).Ensures (fun _ => Touches i s) (Touches i s))
    (h : streamStep startRule byteRule endRule s = .next t) :
    ∃ q u, (q = s.inq ∨ i.isStream = true ∧ q = s.inq.tail) ∧ Touches i { s with inq := q } u ∧ Ended i u t := by
  have hs := hstart s
  have hb := fun b q => hbyte b { s with inq := q }
  have he := fun q => hend { s with inq := q }
  have htail : ∀ {it q}, s.inq = it :: q → q = s.inq ∨ i.isStream = true ∧ q = s.inq.tail :=
    fun hq => .inr ⟨hi, by rw [hq]; rfl⟩
  obtain ⟨-, u, hu, rfl⟩ | ⟨-, -, rfl⟩ | ⟨b, q, -, hq, hu⟩ | ⟨q, u, -, hq, hu, rfl⟩ | ⟨r, e, w, u, hr, hu, rfl⟩ :=
    streamStep_cases h
  · exact ⟨s.inq, u, .inl rfl, by rwa [hu] at hs, .inr (.inr ⟨hi, .inr rfl⟩)⟩
  · exact ⟨t.inq, t, .inl rfl, hrefl t, .inr (.inr ⟨hi, .inl rfl⟩)⟩
  · have hb := hb b q
    exact ⟨q, t, htail hq, by rwa [hu] at hb, .inr (.inr ⟨hi, .inl rfl⟩)⟩
  · have he := he q
    exact ⟨q, u, htail hq, by rwa [hu] at he, .inl rfl⟩
  · obtain rfl | ⟨b, q, hq, rfl⟩ | ⟨q, hq, rfl⟩ := hr
    · exact ⟨s.inq, u, .inl rfl, by rwa [hu] at hs, .inr (.inl ⟨e, w, rfl⟩)⟩
    · have hb := hb b q
      exact ⟨q, u, htail hq, by rwa [hu] at hb, .inr (.inl ⟨e, w, rfl⟩)⟩
    · have he := he q
      exact ⟨q, u, htail hq, by rwa [hu] at he, .inr (.inl ⟨e, w, rfl⟩)⟩

end Frames

section Operations

variable {P : State → Prop} {s : State}

theorem alloc_leaves (nd : Node) (h : ∀ a, P { s with arena := a }) : (alloc nd s).Ensures (fun _ => P) P :=
  alloc_ensures (fun _ => h s.arena) fun _ => h _

theorem insert_leaves (r : NodeIdx) (p : Prio) (h : ∀ a q, P { s with heap := a, hseq := q }) :
    (insert r p s).Ensures (fun _ => P) P :=
  insert_ensures (fun _ => h s.heap s.hseq) fun _ => h _ _

theorem removeMin_leaves (h : ∀ a, P { s with heap := a }) : (removeMin s).Ensures (fun _ => P) P :=
  removeMin_ensures (fun _ => h s.heap) fun _ _ _ => h _

theorem readNode_leaves (n : NodeIdx) (h : P s) : (readNode n s).Ensures (fun _ => P) P :=
  readNode_ensures fun _ _ => h

theorem putByte_leaves (b : Byte) (h : P s) (hb : ∀ o, P { s.emit [b] with outBytes := o }) :
    (putByte b s).Ensures (fun _ => P) P := by
  unfold putByte
  split
  exacts [h, hb _]

end Operations

section TreeRules

variable (s : State)

theorem seedLeaf_touches (c : Symbol) {s u : State} (hu : Touches .hseed s u) :
    (seedLeaf c u).Ensures (fun _ => Touches .hseed s) (Touches .hseed s) := by
  obtain ⟨h, q, a, v, w, rfl⟩ := hu
  rw [seedLeaf]
  refine Res.Ensures.andThen (Q := fun _ => Touches .hseed s) (alloc_leaves _ fun _ => ⟨_, _, _, _, _, rfl⟩) ?_
  rintro n _ ⟨h, q, a, v, w, rfl⟩
  exact insert_leaves _ _ fun _ _ => ⟨_, _, _, _, _, rfl⟩

theorem hseedRule_touches : (hseedRule s).Ensures (fun _ => Touches .hseed s) (Touches .hseed s) :=
  forEach_ensures (P := fun _ => Touches .hseed s) (fun c _ _ hu => seedLeaf_touches c hu) symbols _
    ⟨_, _, _, _, _, rfl⟩

theorem hmergeRule_touches : (hmergeRule s).Ensures (fun _ => Touches .hmerge s) (Touches .hmerge s) := by
  have take : ∀ u, Touches .hmerge s u → (removeMin u).Ensures (fun _ => Touches .hmerge s) (Touches .hmerge s) := by
    rintro _ ⟨h, q, a, rfl⟩
    exact removeMin_leaves fun _ => ⟨_, _, _, rfl⟩
  rw [hmergeRule]
  split
  · exact ⟨_, _, _, rfl⟩
  · refine (take s ⟨_, _, _, rfl⟩).andThen fun e1 s1 h1 => (take s1 h1).andThen fun e2 s2 h2 => ?_
    obtain ⟨h, q, a, rfl⟩ := h2
    refine Res.Ensures.andThen (Q := fun _ => Touches .hmerge s) (alloc_leaves _ fun _ => ⟨_, _, _, rfl⟩) ?_
    rintro n _ ⟨h, q, a, rfl⟩
    exact insert_leaves _ _ fun _ _ => ⟨_, _, _, rfl⟩

theorem htakeRule_touches : (htakeRule s).Ensures (fun _ => Touches .htake s) (Touches .htake s) := by
  rw [htakeRule]
  split
  · exact ⟨_, _, _, _, rfl⟩
  · split
    · exact ⟨_, _, _, _, rfl⟩
    · refine (removeMin_leaves (P := Touches .htake s) fun _ => ⟨_, _, _, _, rfl⟩).andThen ?_
      rintro e _ ⟨h, r, v, w, rfl⟩
      exact ⟨_, _, _, _, rfl⟩

theorem buildRule_touches : (buildRule s).Ensures (fun _ => Touches .build s) (Touches .build s) := by
  have ofSeed : ∀ u, Touches .hseed s u → Touches .build s u := by
    rintro _ ⟨h, q, a, v, w, rfl⟩
    exact ⟨_, _, _, _, _, _, rfl⟩
  have ofMerge : ∀ t u, Touches .build s t → Touches .hmerge t u → Touches .build s u := by
    rintro _ _ ⟨h, q, a, r, v, w, rfl⟩ ⟨h, q, a, rfl⟩
    exact ⟨_, _, _, _, _, _, rfl⟩
  have ofTake : ∀ t u, Touches .build s t → Touches .htake t u → Touches .build s u := by
    rintro _ _ ⟨h, q, a, r, v, w, rfl⟩ ⟨h, r, v, w, rfl⟩
    exact ⟨_, _, _, _, _, _, rfl⟩
  refine ((hseedRule_touches s).mono (fun _ => ofSeed) ofSeed).andThen fun _ t ht => ?_
  refine (repeatTimes_ensures (P := fun _ => Touches .build s) (fun _ u hu =>
    (hmergeRule_touches u).mono (fun _ v => ofMerge u v hu) fun v => ofMerge u v hu) Config.nmerge t ht).andThen fun _ u hu => ?_
  exact (htakeRule_touches u).mono (fun _ v => ofTake u v hu) fun v => ofTake u v hu

theorem genRule_touches : (genRule s).Ensures (fun _ => Touches .gen s) (Touches .gen s) := by
  rw [genRule]
  split
  · exact ⟨_, _, rfl⟩
  · split
    · exact ⟨_, _, rfl⟩
    · trivial

theorem hidumpRule_touches : (hidumpRule s).Ensures (fun _ => Touches .hidump s) (Touches .hidump s) := by
  rw [hidumpRule]
  split
  · exact ⟨[], (emit_nil s).symm⟩
  · exact ⟨_, rfl⟩

theorem growStep_touches (cur : NodeIdx) (bit : Bool) {s u : State} (hu : Touches .recon s u) :
    (growStep cur bit u).Ensures (fun _ => Touches .recon s) (Touches .recon s) := by
  refine (readNode_leaves cur hu).andThen fun nd t ht => ?_
  split
  · exact ht
  · obtain ⟨h, a, r, v, rfl⟩ := ht
    refine Res.Ensures.andThen (Q := fun _ => Touches .recon s) (alloc_leaves _ fun _ => ⟨_, _, _, _, rfl⟩) ?_
    rintro n _ ⟨h, a, r, v, rfl⟩
    exact ⟨_, _, _, _, rfl⟩

theorem growPath_touches (path : Code) (cur : NodeIdx) {s u : State} (hu : Touches .recon s u) :
    (growPath path cur u).Ensures (fun _ => Touches .recon s) (Touches .recon s) := by
  induction path generalizing cur u with
  | nil => exact hu
  | cons bit rest ih => exact (growStep_touches cur bit hu).andThen fun n t ht => ih n ht

theorem growSymbol_touches (r : NodeIdx) (c : Symbol) {s u : State} (hu : Touches .recon s u) :
    (growSymbol r c u).Ensures (fun _ => Touches .recon s) (Touches .recon s) := by
  rw [growSymbol]
  split
  · exact hu
  · refine (growPath_touches _ r hu).andThen fun cur t ht => (readNode_leaves cur ht).andThen ?_
    rintro nd _ ⟨h, a, r, v, rfl⟩
    exact ⟨_, _, _, _, rfl⟩

theorem reconRule_touches : (reconRule s).Ensures (fun _ => Touches .recon s) (Touches .recon s) := by
  rw [reconRule]
  split
  · exact ⟨_, _, _, _, rfl⟩
  · refine Res.Ensures.andThen (Q := fun _ => Touches .recon s) (alloc_leaves _ fun _ => ⟨_, _, _, _, rfl⟩) ?_
    intro r t ht
    refine (forEach_ensures (P := fun _ => Touches .recon s) (fun c _ _ hu => growSymbol_touches r c hu)
      symbols t ht).andThen ?_
    rintro _ _ ⟨h, a, r, v, rfl⟩
    exact ⟨_, _, _, _, rfl⟩

end TreeRules

section StreamRules

variable (s : State)

theorem analyzeByte_touches (b : Byte) : (analyzeByte b s).Ensures (fun _ => Touches .analyze s) (Touches .analyze s) := by
  rw [analyzeByte]
  split <;> split <;> exact ⟨_, _, _, rfl⟩

theorem hiloadByte_touches (b : Byte) : (hiloadByte b s).Ensures (fun _ => Touches .hiload s) (Touches .hiload s) := by
  rw [hiloadByte]
  split
  all_goals repeat' split
  all_goals exact ⟨_, _, _, _, _, _, id, rfl⟩

theorem hiloadEnd_touches : (hiloadEnd s).Ensures (fun _ => Touches .hiload s) (Touches .hiload s) := by
  rw [hiloadEnd]
  split <;> exact ⟨_, _, _, _, _, _, id, rfl⟩

theorem touches_compress_refl : Touches .compress s s := ⟨_, _, _, _, _, _, [], by rw [emit_nil]⟩

theorem writeBit_touches (bit : Bool) {s u : State} (hu : Touches .compress s u) :
    (writeBit bit u).Ensures (fun _ => Touches .compress s) (Touches .compress s) := by
  obtain ⟨a, k, i, o, n, w, bs, rfl⟩ := hu
  rw [writeBit]
  dsimp only
  split
  · refine (putByte_leaves (P := Touches .compress s) _ ⟨_, _, _, _, _, _, bs, rfl⟩ fun _ => ?_).andThen ?_
    · exact ⟨_, _, _, _, _, _, bs ++ [_], by simp only [← emit_emit]; rfl⟩
    · rintro _ _ ⟨a, k, i, o, n, w, bs, rfl⟩
      exact ⟨_, _, _, _, _, _, bs, rfl⟩
  · exact ⟨_, _, _, _, _, _, bs, rfl⟩

theorem compressStart_touches : (compressStart s).Ensures (fun _ => Touches .compress s) (Touches .compress s) := by
  rw [compressStart]
  split
  · exact touches_compress_refl s
  · split
    · exact touches_compress_refl s
    · exact ⟨_, _, _, _, _, _, [], by rw [emit_nil]; rfl⟩

theorem compressByte_touches (b : Byte) : (compressByte b s).Ensures (fun _ => Touches .compress s) (Touches .compress s) := by
  have counted : Touches .compress s { s with inBytes := s.inBytes + 1#64 } :=
    ⟨_, _, _, _, _, _, [], by rw [emit_nil]⟩
  rw [compressByte]
  split
  · exact touches_compress_refl s
  · dsimp only
    split
    · exact ⟨_, _, _, _, _, _, [], by rw [emit_nil]; rfl⟩
    · exact forEach_ensures (P := fun _ => Touches .compress s) (fun bit _ _ hu => writeBit_touches bit hu) _ _ counted

theorem compressEnd_touches : (compressEnd s).Ensures (fun _ => Touches .compress s) (Touches .compress s) := by
  rw [compressEnd, flush]
  split
  · refine (putByte_leaves (P := Touches .compress s) _ (touches_compress_refl s)
      fun _ => ⟨_, _, _, _, _, _, [_], rfl⟩).andThen ?_
    rintro _ _ ⟨a, k, i, o, n, w, bs, rfl⟩
    exact ⟨_, _, _, _, _, _, bs, rfl⟩
  · exact touches_compress_refl s

theorem touches_decompress_refl : Touches .decompress s s := ⟨_, _, _, [], by rw [emit_nil]⟩

theorem decompressStart_touches : (decompressStart s).Ensures (fun _ => Touches .decompress s) (Touches .decompress s) := by
  rw [decompressStart]
  split
  · exact touches_decompress_refl s
  · exact ⟨_, _, _, [], by rw [emit_nil]⟩

theorem bitstep_touches (bit : Bool) {s u : State} (hu : Touches .decompress s u) :
    (bitstep bit u).Ensures (fun _ t => Touches .decompress s t ∧ t.rcnt = u.rcnt) (Touches .decompress s) := by
  obtain ⟨b, k, n, bs, rfl⟩ := hu
  refine (readNode_ensures (P := fun _ t => t = _) fun _ _ => rfl).andThen ?_
  rintro nd _ rfl
  split
  · exact ⟨_, _, _, bs, rfl⟩
  · refine (readNode_ensures (P := fun _ t => t = _) fun _ _ => rfl).andThen ?_
    rintro nd' _ rfl
    split
    · exact ⟨⟨_, _, _, bs ++ [_], by simp only [← emit_emit]; rfl⟩, rfl⟩
    · exact ⟨⟨_, _, _, bs, rfl⟩, rfl⟩

/-- The eight bits of a byte come out of `RBYTE`; none is pulled from the input (R224, R262). -/
theorem decodeBit_touches (k : Nat) (u : State) (hu : Touches .decompress s u ∧ u.rcnt.val = k + 1) :
    (decodeBit u).Ensures (fun _ t => Touches .decompress s t ∧ t.rcnt.val = k) (Touches .decompress s) := by
  obtain ⟨⟨b, c, n, bs, rfl⟩, hk⟩ := hu
  have hne : c ≠ 0 := by
    rintro rfl
    exact absurd hk (by simp)
  rw [decodeBit, readBit_pending hne, Res.andThen_ok]
  refine (bitstep_touches _ ⟨_, _, _, bs, rfl⟩).mono (fun _ t ht => ⟨ht.1, ?_⟩) (fun _ h => h)
  rw [ht.2]
  simp only at hk ⊢
  omega

theorem decompressByte_touches (b : Byte) :
    (decompressByte b s).Ensures (fun _ => Touches .decompress s) (Touches .decompress s) :=
  (repeatTimes_ensures (P := fun k u => Touches .decompress s u ∧ u.rcnt.val = k) (decodeBit_touches s) 8
    { s with rbyte := b, rcnt := 8 } ⟨⟨_, _, _, [], by rw [emit_nil]⟩, rfl⟩).mono (fun _ _ h => h.1) fun _ h => h

end StreamRules

section Commands

variable {i : Instr} {s t : State}

/-- Everything a command's step can do, by the elements it can change. -/
theorem exec_cases (h : exec i s = .next t) :
    ∃ q u, (q = s.inq ∨ i.isStream = true ∧ q = s.inq.tail) ∧ Touches i { s with inq := q } u ∧ Ended i u t := by
  cases i with
  | nop => exact wholeStep_touches (rule := Res.ok ()) rfl h
  | clrerr => exact wholeStep_touches (rule := fun t => .ok () (acknowledgeFault t)) rfl h
  | srst => exact wholeStep_touches (rule := fun t => .ok () (resetEngine t)) rfl h
  | fclr => exact wholeStep_touches (rule := fun t => .ok () { t with freq := zeroFreq }) rfl h
  | analyze =>
    exact streamStep_touches (startRule := analyzeStart) (endRule := analyzeEnd) rfl (fun _ => ⟨_, _, _, rfl⟩)
      (fun _ => ⟨_, _, _, rfl⟩) (fun b s => analyzeByte_touches s b) (fun _ => ⟨_, _, _, rfl⟩) h
  | hseed => exact wholeStep_touches (hseedRule_touches s) h
  | hmerge => exact wholeStep_touches (hmergeRule_touches s) h
  | htake => exact wholeStep_touches (htakeRule_touches s) h
  | build => exact wholeStep_touches (buildRule_touches s) h
  | gen => exact wholeStep_touches (genRule_touches s) h
  | recon => exact wholeStep_touches (reconRule_touches s) h
  | hidump => exact wholeStep_touches (hidumpRule_touches s) h
  | hiload =>
    exact streamStep_touches (startRule := hiloadStart) rfl (fun _ => ⟨_, _, _, _, _, _, id, rfl⟩)
      (fun _ => ⟨_, false, _, _, _, _, nofun, rfl⟩) (fun b s => hiloadByte_touches s b) hiloadEnd_touches h
  | compress =>
    exact streamStep_touches rfl touches_compress_refl compressStart_touches (fun b s => compressByte_touches s b)
      compressEnd_touches h
  | decompress =>
    exact streamStep_touches (endRule := decompressEnd) rfl touches_decompress_refl decompressStart_touches
      (fun b s => decompressByte_touches s b) touches_decompress_refl h

theorem code_ne_zero (e : ErrCode) : e.code ≠ 0#8 := by cases e <;> decide

/-- The commands that never fault leave a recorded fault as it is; the widest frame among them, that of `BUILD`, serves
for `HSEED` too. -/
theorem exec_err_kept (hi : i ∈ [Instr.nop, .fclr, .hseed, .build]) (h : exec i s = .next t) :
    t.err = s.err ∧ t.errinfo = s.errinfo := by
  have noFault : ∀ {rule : State → Res Unit}, (rule s).Ensures (fun _ => Touches .build s) Res.NoRaise →
      wholeStep rule s = .next t → t.err = s.err ∧ t.errinfo = s.errinfo := by
    intro rule hr h
    obtain ⟨u, hu, rfl⟩ | ⟨e, w, u, hu, rfl⟩ := wholeStep_eq_next.1 h <;> rw [hu] at hr
    · obtain ⟨_, _, _, _, _, _, rfl⟩ := hr
      exact ⟨rfl, rfl⟩
    · exact hr.elim
  simp only [List.mem_cons, List.not_mem_nil, or_false] at hi
  obtain rfl | rfl | rfl | rfl := hi
  · cases h
    exact ⟨rfl, rfl⟩
  · cases h
    exact ⟨rfl, rfl⟩
  · refine noFault (((hseedRule_touches s).and (hseedRule_ensures s)).mono (fun _ u hu => ?_) fun _ hu => hu.2) h
    obtain ⟨h, q, a, v, w, rfl⟩ := hu.1
    exact ⟨_, _, _, _, _, _, rfl⟩
  · exact noFault (((buildRule_touches s).and (buildRule_ensures s)).mono (fun _ _ hu => hu.1) fun _ hu => hu.2) h

/-- Settles O53: each command's frame and the way its step ends say it, but for the commands that never fault. -/
theorem onlyTheNamedCommandsWrite : Obligations.OnlyTheNamedCommandsWrite := by
  intro i s t h
  have hkept := fun hi => exec_err_kept hi h
  obtain ⟨q, u, hq, hu, ht⟩ := exec_cases h
  cases i
  case' nop | clrerr | srst | fclr => cases hu
  case' hidump => obtain ⟨_, rfl⟩ := hu
  case' gen => obtain ⟨_, _, rfl⟩ := hu
  case' hmerge | analyze => obtain ⟨_, _, _, rfl⟩ := hu
  case' htake | recon | decompress => obtain ⟨_, _, _, _, rfl⟩ := hu
  case' hseed => obtain ⟨_, _, _, _, _, rfl⟩ := hu
  case' build => obtain ⟨_, _, _, _, _, _, rfl⟩ := hu
  case' hiload => obtain ⟨_, _, _, _, _, _, -, rfl⟩ := hu
  case' compress => obtain ⟨_, _, _, _, _, _, _, rfl⟩ := hu
  all_goals
    obtain rfl | ⟨e, w, rfl⟩ | ⟨hs, rfl | rfl⟩ := ht
    all_goals simp_all [Instr.isStream, code_ne_zero, State.reset]

end Commands

end Sys2Proof.Machine
end

section
/-! SUPPORT. The engine's invariant along an event (spec/10_state.md R31, R34, R35, spec/60_exceptions.md R301): what a
command's step keeps of the scheduler and the arena, of the codes, and of the control registers. -/

namespace Sys2Proof.Machine

section Codes

/-- The code table's invariant speaks of `CT` and `PBUF` only. -/
theorem TableInv.of_eq {s t : State} (h : TableInv s) (hc : t.ct = s.ct) (hb : t.pbuf = s.pbuf) : TableInv t :=
  ⟨fun c => by simpa only [State.codeAt, hc] using h.codes c, by simpa only [hb] using h.buffer⟩

/-- Every code of a table has at most 127 bits. -/
def Fits (table : Vector Code 128) : Prop := ∀ c : Symbol, table[c.val].length ≤ 127

theorem Fits.empty : Fits emptyTable := fun c => by simp

theorem Fits.set {table : Vector Code 128} (h : Fits table) (c : Symbol) {code : Code} (hc : code.length ≤ 127) :
    Fits (table.set c.val code) := by
  intro d
  rw [Vector.getElem_set]
  split
  · exact hc
  · exact h d

theorem assignCode_fits {table : Vector Code 128} {path : Code} (b : Byte) (hp : path.length ≤ 127) (h : Fits table) :
    Fits (assignCode b path table) := by
  unfold assignCode
  split
  · exact h.set _ hp
  · exact h

/-- The walk of `GEN` gives no code of more bits than it has fuel for (R43, R181). -/
theorem visit_fits {arena : List Node} {fuel : Nat} {n : NodeIdx} {path : Code} {table table' : Vector Code 128}
    (hp : path.length + fuel ≤ 128) (h : Fits table) (hv : visit arena fuel n path table = .ok table') : Fits table' := by
  induction fuel generalizing n path table table' with
  | zero => cases hv
  | succ fuel ih =>
    have longer : ∀ bit : Bool, (path ++ [bit]).length + fuel ≤ 128 := fun bit => by simp; omega
    rw [visit] at hv
    split at hv
    · cases hv
    · split at hv
      · cases hv
        exact assignCode_fits _ (by omega) h
      · split at hv
        · split at hv
          · next hleft => exact ih (longer true) (ih (longer false) h hleft) hv
          · cases hv
        · exact ih (longer false) h hv
        · exact ih (longer true) h hv
        · cases hv
          exact h

theorem genRule_table {s : State} (h : TableInv s) : (genRule s).Ensures (fun _ => TableInv) TableInv := by
  rw [genRule]
  split
  · exact h
  · split
    · exact ⟨visit_fits le_rfl .empty (by assumption), h.buffer⟩
    · trivial

/-- Every row of the parser's table keeps the codes and the buffer within 127 bits (R197). -/
theorem hiloadByte_table (b : Byte) {s : State} (h : TableInv s) : (hiloadByte b s).Ensures (fun _ => TableInv) TableInv := by
  have clear : TableInv { s.setCode s.pidx [] with pst := .sol } := ⟨Fits.set h.codes _ (Nat.zero_le _), h.buffer⟩
  have store : TableInv { s.setCode s.pidx s.pbuf with pst := .sol } := ⟨Fits.set h.codes _ h.buffer, h.buffer⟩
  rw [hiloadByte]
  split
  · split <;> exact h.of_eq rfl rfl
  · split
    · exact h
    · split
      · split <;> exact h.of_eq rfl rfl
      · exact h
  · split
    · split <;> exact h.of_eq rfl rfl
    · split
      · exact ⟨h.codes, Nat.zero_le _⟩
      · split
        · exact clear
        · exact h
  · split
    · exact h
    · split
      · exact ⟨h.codes, Nat.le_of_ble_eq_true rfl⟩
      · split
        · exact clear
        · exact h
  · split
    · split
      · exact h
      · next hfull => exact ⟨h.codes, by simpa using Nat.lt_of_le_of_ne h.buffer hfull⟩
    · split
      · exact store
      · exact h

theorem hiloadEnd_table {s : State} (h : TableInv s) : (hiloadEnd s).Ensures (fun _ => TableInv) TableInv := by
  have clear : TableInv ((s.setCode s.pidx []).setTableValid true) := ⟨Fits.set h.codes _ (Nat.zero_le _), h.buffer⟩
  rw [hiloadEnd]
  split
  · exact ⟨h.codes, h.buffer⟩
  · exact ⟨h.codes, h.buffer⟩
  · exact clear
  · exact clear
  · exact ⟨Fits.set h.codes _ h.buffer, h.buffer⟩

end Codes

section Data

theorem reset_buildInv : BuildInv State.reset := by
  refine ⟨.of_empty rfl, Nat.zero_le _, ?_, List.nodup_nil, List.nodup_nil, fun h0 => absurd rfl h0, nofun⟩
  exact fun c hc => absurd hc List.not_mem_nil

variable {i : Instr} {s t : State} {P : State → Prop}

/-- What a rule keeps, and the end of a step keeps, a whole step keeps. -/
theorem wholeStep_keeps {rule : State → Res Unit} (hb : ∀ u, P u → P (u.setBusy false))
    (hf : ∀ e w u, P u → P (takeFault e w u)) (hr : (rule s).Ensures (fun _ => P) P) (h : wholeStep rule s = .next t) :
    P t := by
  obtain ⟨u, hu, rfl⟩ | ⟨e, w, u, hu, rfl⟩ := wholeStep_eq_next.1 h <;> rw [hu] at hr
  exacts [hb u hr, hf e w u hr]

/-- What each of its three rules keeps, a stream step keeps. -/
theorem streamStep_keeps {startRule endRule : State → Res Unit} {byteRule : Byte → State → Res Unit}
    (hb : ∀ u, P u → P (u.setBusy false)) (hf : ∀ e w u, P u → P (takeFault e w u))
    (hp : ∀ u, P u → P { u with phase := .run }) (hq : ∀ u q, P u → P { u with inq := q })
    (hstart : ∀ s, P s → (startRule s).Ensures (fun _ => P) P)
    (hbyte : ∀ b s, P s → (byteRule b s).Ensures (fun _ => P) P) (hend : ∀ s, P s → (endRule s).Ensures (fun _ => P) P)
    (hs : P s) (h : streamStep startRule byteRule endRule s = .next t) : P t := by
  have hstart := hstart s hs
  have hbyte := fun b q => hbyte b _ (hq s q hs)
  have hend := fun q => hend _ (hq s q hs)
  obtain ⟨-, u, hu, rfl⟩ | ⟨-, -, rfl⟩ | ⟨b, q, -, -, hu⟩ | ⟨q, u, -, -, hu, rfl⟩ | ⟨r, e, w, u, hr, hu, rfl⟩ :=
    streamStep_cases h
  · rw [hu] at hstart
    exact hp u hstart
  · exact hs
  · have := hbyte b q
    rwa [hu] at this
  · have := hend q
    rw [hu] at this
    exact hb u this
  · refine hf e w u ?_
    obtain rfl | ⟨b, q, -, rfl⟩ | ⟨q, -, rfl⟩ := hr
    · rwa [hu] at hstart
    · have := hbyte b q
      rwa [hu] at this
    · have := hend q
      rwa [hu] at this

/-- Every command keeps the codes and the parser's buffer within 127 bits (R35, R42). -/
theorem exec_table (hs : TableInv s) (h : exec i s = .next t) : TableInv t := by
  by_cases hi : i ∈ [Instr.gen, .hiload, .srst]
  · simp only [List.mem_cons, List.not_mem_nil, or_false] at hi
    obtain rfl | rfl | rfl := hi
    · exact wholeStep_keeps (fun _ hu => hu.of_eq rfl rfl) (fun _ _ _ hu => hu.of_eq rfl rfl) (genRule_table hs) h
    · exact streamStep_keeps (startRule := hiloadStart) (fun _ hu => hu.of_eq rfl rfl) (fun _ _ _ hu => hu.of_eq rfl rfl)
        (fun _ hu => hu.of_eq rfl rfl) (fun _ _ hu => hu.of_eq rfl rfl) (fun _ _ => ⟨Fits.empty, Nat.zero_le _⟩)
        (fun b _ hu => hiloadByte_table b hu) (fun _ hu => hiloadEnd_table hu) hs h
    · cases h
      exact ⟨Fits.empty, Nat.zero_le _⟩
  · obtain ⟨-, hct, -, -, -, -, -, -, -, -, -, -, hparser, -⟩ := onlyTheNamedCommandsWrite i s t h
    exact hs.of_eq (hct hi) (hparser (by simp_all)).2.2

/-- Every command keeps the scheduler and the arena in order (R31 to R34). -/
theorem exec_build (hb : BuildInv s) (hs : TableInv s) (h : exec i s = .next t) : BuildInv t := by
  have whole : ∀ {rule : State → Res Unit}, (rule s).Ensures (fun _ => BuildInv) BuildInv →
      wholeStep rule s = .next t → BuildInv t :=
    wholeStep_keeps (fun _ hu => hu.of_eq rfl rfl rfl rfl id) (fun _ _ _ hu => hu.of_eq rfl rfl rfl rfl id)
  by_cases hi : i ∈ [Instr.hseed, .hmerge, .htake, .build, .recon, .srst]
  · simp only [List.mem_cons, List.not_mem_nil, or_false] at hi
    obtain rfl | rfl | rfl | rfl | rfl | rfl := hi
    · exact whole ((hseedRule_ensures s).mono (fun _ _ hu => hu.1) fun _ hu => hu.elim) h
    · exact whole (hmergeRule_keeps hb) h
    · exact whole (htakeRule_keeps hb) h
    · exact whole ((buildRule_ensures s).mono (fun _ _ hu => hu) fun _ hu => hu.elim) h
    · exact whole (reconRule_ensures hb hs.codes) h
    · cases h
      exact reset_buildInv.of_eq rfl rfl rfl rfl id
  · obtain ⟨-, -, hroot, harena, hheap, hhseq, htree, -⟩ := onlyTheNamedCommandsWrite i s t h
    refine hb.of_eq (hheap hi) (hhseq (by simp_all)) (harena (by simp_all)) (hroot (by simp_all)) fun hv => ?_
    by_cases hl : i = .hiload
    · subst hl
      obtain ⟨q, u, -, ⟨_, v, _, _, _, _, hvs, rfl⟩, ht⟩ := exec_cases h
      obtain rfl | ⟨e, w, rfl⟩ | ⟨-, rfl | rfl⟩ := ht <;> exact hvs hv
    · rw [← htree (by simp_all)]
      exact hv

end Data

section Control

variable {i : Instr} {s t u : State}

/-- No rule but those of `CLRERR` and `SRST` writes a control register. -/
theorem Touches.control (h : Touches i s u) (hi : i ∉ [Instr.clrerr, .srst]) :
    u.err = s.err ∧ u.cmdr = s.cmdr ∧ u.busy = s.busy ∧ u.phase = s.phase := by
  cases i
  case clrerr | srst => simp at hi
  case' nop | fclr => cases h
  case' hidump => obtain ⟨_, rfl⟩ := h
  case' gen => obtain ⟨_, _, rfl⟩ := h
  case' hmerge | analyze => obtain ⟨_, _, _, rfl⟩ := h
  case' htake | recon | decompress => obtain ⟨_, _, _, _, rfl⟩ := h
  case' hseed => obtain ⟨_, _, _, _, _, rfl⟩ := h
  case' build => obtain ⟨_, _, _, _, _, _, rfl⟩ := h
  case' hiload => obtain ⟨_, _, _, _, _, _, -, rfl⟩ := h
  case' compress => obtain ⟨_, _, _, _, _, _, _, rfl⟩ := h
  all_goals exact ⟨rfl, rfl, rfl, rfl⟩

theorem code_le (e : ErrCode) : e.code.toNat ≤ 13 := by cases e <;> decide

/-- Only the codes of R301 are ever recorded. -/
theorem exec_err_le (hs : s.err.toNat ≤ 13) (h : exec i s = .next t) : t.err.toNat ≤ 13 := by
  obtain ⟨q, u, -, hu, ht⟩ := exec_cases h
  have herr : u.err.toNat ≤ 13 := by
    by_cases hi : i ∈ [Instr.clrerr, .srst]
    · simp only [List.mem_cons, List.not_mem_nil, or_false] at hi
      obtain rfl | rfl := hi <;> cases hu <;> exact Nat.zero_le _
    · rwa [(hu.control hi).1]
  obtain rfl | ⟨e, w, rfl⟩ | ⟨-, rfl | rfl⟩ := ht
  exacts [herr, code_le e, herr, herr]

/-- A command that is no stream command has ended after its step (R63). -/
theorem exec_whole_busy (hi : i.isStream = false) (h : exec i s = .next t) : t.busy = false := by
  obtain ⟨q, u, -, -, rfl | ⟨e, w, rfl⟩ | ⟨hs, -⟩⟩ := exec_cases h
  · rfl
  · rfl
  · rw [hi] at hs
    cases hs

/-- A stream command that goes on leaves `CMDR` and `ERR` (R62). -/
theorem exec_stream_goes_on (hi : i.isStream = true) (h : exec i s = .next t) (hb : t.busy = true) :
    t.cmdr = s.cmdr ∧ t.err = s.err := by
  have hnot : i ∉ [Instr.clrerr, .srst] := by
    rintro hm
    simp only [List.mem_cons, List.not_mem_nil, or_false] at hm
    obtain rfl | rfl := hm <;> cases hi
  obtain ⟨q, u, -, hu, ht⟩ := exec_cases h
  obtain ⟨herr, hcmdr, -⟩ := hu.control hnot
  obtain rfl | ⟨e, w, rfl⟩ | ⟨-, rfl | rfl⟩ := ht
  · cases hb
  · cases hb
  · exact ⟨hcmdr, herr⟩
  · exact ⟨hcmdr, herr⟩

/-- With `BUSY` = 0 the control registers are in order whatever they hold. -/
theorem ControlInv.of_idle (hb : s.busy = false) (he : s.err.toNat ≤ 13) : ControlInv s where
  running h := by simp [hb] at h
  faulted h := by simp [hb] at h
  code := he
  walk h := absurd h.1 (by simp [hb])
  writer h := absurd h.1 (by simp [hb])

/-- A stream command that goes on to its items from `START`, or is between two of them. -/
theorem streamStep_goes_on {startRule endRule : State → Res Unit} {byteRule : Byte → State → Res Unit}
    (h : streamStep startRule byteRule endRule s = .next t) (hb : t.busy = true) :
    (∃ u, startRule s = .ok () u ∧ t = { u with phase := .run }) ∨ (s.phase = .run ∧ t = s) ∨
      ∃ b q, s.phase = .run ∧ byteRule b { s with inq := q } = .ok () t := by
  obtain ⟨-, hu⟩ | ⟨hp, -, rfl⟩ | ⟨b, q, hp, -, hu⟩ | ⟨q, u, -, -, -, rfl⟩ | ⟨r, e, w, u, -, -, rfl⟩ := streamStep_cases h
  · exact .inl hu
  · exact .inr (.inl ⟨hp, rfl⟩)
  · exact .inr (.inr ⟨b, q, hp, hu⟩)
  · cases hb
  · cases hb

/-- The decoder's walk stands on a node of a valid tree (R262). -/
structure Walking (s : State) : Prop where
  tree : s.treeValid = true
  root : s.root.toNat < s.nn
  cur : s.cur.toNat < s.nn

theorem readBit_frame {b : Bool} (h : readBit s = .ok b t) : ∃ q r k, t = { s with inq := q, rbyte := r, rcnt := k } := by
  unfold readBit at h
  split at h
  · split at h <;> cases h
    exact ⟨_, _, _, rfl⟩
  · cases h
    exact ⟨_, _, _, rfl⟩

theorem decodeBit_walking (hs : Walking s) (h : decodeBit s = .ok () t) : Walking t := by
  obtain ⟨bit, u, hu, h⟩ := Res.andThen_eq_ok.1 h
  obtain ⟨q, r, k, rfl⟩ := readBit_frame hu
  obtain ⟨nd, n, nd', -, -, hn, ⟨-, rfl⟩ | ⟨-, rfl⟩⟩ := bitstep_cases h
  · exact ⟨hs.tree, hs.root, hs.root⟩
  · exact ⟨hs.tree, hs.root, nodeAt_isSome.1 ⟨nd', hn⟩⟩

theorem exec_decompress_walking (ha : ArenaInv s) (hc : ControlInv s) (hb : s.busy = true) (hd : decode s.cmdr = .ok .decompress)
    (h : exec .decompress s = .next t) (ht : t.busy = true) : Walking t := by
  have walking : s.treeValid = true → s.cur.toNat < s.nn → Walking s := fun hv hcur => ⟨hv, (ha.tree hv).2.1, hcur⟩
  obtain ⟨u, hu, rfl⟩ | ⟨hp, rfl⟩ | ⟨b, q, hp, hu⟩ := streamStep_goes_on h ht
  · unfold decompressStart at hu
    split at hu
    · cases hu
    · next hv =>
      rw [Bool.not_eq_false] at hv
      cases hu
      exact ⟨hv, (ha.tree hv).2.1, (ha.tree hv).2.1⟩
  · obtain ⟨hv, hcur⟩ := hc.walk ⟨hb, hp, hd⟩
    exact walking hv hcur
  · obtain ⟨hv, hcur⟩ := hc.walk ⟨hb, hp, hd⟩
    have hw := walking hv hcur
    have hbegin : Walking { s with inq := q, rbyte := b, rcnt := 8 } := ⟨hw.tree, hw.root, hw.cur⟩
    exact repeatTimes_keeps (fun _ _ => decodeBit_walking) hbegin hu

/-- The bits of `ACC` not yet written are 0, and no more bytes are reported than are read (R40, R242). -/
structure Writing (s : State) : Prop where
  clear : s.acc.toNat % 2 ^ (8 - s.wcnt.val) = 0
  reported : s.nonascii.toNat ≤ s.inBytes.toNat

theorem clear_next {x k : Nat} (h : x % 2 ^ (8 - k) = 0) : x % 2 ^ (8 - (k + 1)) = 0 :=
  Nat.mod_eq_zero_of_dvd ((pow_dvd_pow 2 (by omega)).trans (Nat.dvd_of_mod_eq_zero h))

theorem setBitFromTop_clear {b : Byte} {k : Fin 8} (h : b.toNat % 2 ^ (8 - k.val) = 0) :
    (setBitFromTop b k).toNat % 2 ^ (8 - (k.val + 1)) = 0 := by
  have hbit : ∀ k : Fin 8, (0x80#8 >>> k.val).toNat % 2 ^ (8 - (k.val + 1)) = 0 := by decide
  rw [setBitFromTop, BitVec.toNat_or, Nat.or_mod_two_pow, clear_next h, hbit k]
  rfl

theorem writeBit_writing {bit : Bool} (hs : Writing s) (h : writeBit bit s = .ok () t) : Writing t := by
  obtain ⟨hk, rfl⟩ | ⟨hk, -, rfl⟩ := writeBit_cases h
  · have hnext : (s.wcnt + 1).val = s.wcnt.val + 1 := Fin.val_add_one_of_lt (lt_of_le_of_ne (Fin.le_last _) hk)
    refine ⟨?_, hs.reported⟩
    dsimp only
    rw [hnext]
    cases bit
    exacts [clear_next hs.clear, setBitFromTop_clear hs.clear]
  · exact ⟨rfl, hs.reported⟩

/-- A byte counter below its greatest value counts one more without a wrap. -/
theorem count_succ {c : Count} (h : c ≠ BitVec.allOnes 64) : (c + 1#64).toNat = c.toNat + 1 := by
  have hne : c.toNat ≠ 2 ^ 64 - 1 := fun he => h (BitVec.eq_of_toNat_eq (by simpa using he))
  have := c.isLt
  simp only [BitVec.toNat_add, BitVec.toNat_ofNat]
  omega

theorem compressByte_writing {b : Byte} (hs : Writing s) (h : compressByte b s = .ok () t) : Writing t := by
  unfold compressByte at h
  split at h
  · cases h
  · next hfull =>
    have hin := count_succ hfull
    have hrep := hs.reported
    have hbegin : Writing { s with inBytes := s.inBytes + 1#64 } :=
      ⟨hs.clear, (by omega : s.nonascii.toNat ≤ (s.inBytes + 1#64).toNat)⟩
    dsimp only at h
    split at h
    · cases h
      have hnon : (s.nonascii + 1#64).toNat ≤ s.nonascii.toNat + 1 := Nat.mod_le _ _
      exact ⟨hs.clear, (by omega : (s.nonascii + 1#64).toNat ≤ (s.inBytes + 1#64).toNat)⟩
    · exact forEach_keeps (fun _ _ _ => writeBit_writing) hbegin h

theorem exec_compress_writing (hc : ControlInv s) (hb : s.busy = true) (hd : decode s.cmdr = .ok .compress)
    (h : exec .compress s = .next t) (ht : t.busy = true) : Writing t := by
  have writing : s.phase = .run → Writing s := fun hp =>
    have hw := hc.writer ⟨hb, hp, hd⟩
    ⟨hw.1, hw.2⟩
  obtain ⟨u, hu, rfl⟩ | ⟨hp, rfl⟩ | ⟨b, q, hp, hu⟩ := streamStep_goes_on h ht
  · unfold compressStart at hu
    split at hu
    · cases hu
    · split at hu
      · cases hu
      · cases hu
        exact ⟨rfl, le_rfl⟩
  · exact writing hp
  · have hw := writing hp
    have hbegin : Writing { s with inq := q } := ⟨hw.clear, hw.reported⟩
    exact compressByte_writing hbegin hu

/-- Every command's step keeps the control registers in order (R26, R39, R40, R103). -/
theorem exec_control (ha : ArenaInv s) (hc : ControlInv s) (hb : s.busy = true) (hd : decode s.cmdr = .ok i)
    (h : exec i s = .next t) : ControlInv t := by
  have hcode := exec_err_le hc.code h
  cases ht : t.busy with
  | false => exact .of_idle ht hcode
  | true =>
    have hi : i.isStream = true := by
      by_contra hi
      rw [exec_whole_busy (Bool.not_eq_true _ ▸ hi) h] at ht
      cases ht
    obtain ⟨hcmdr, herr⟩ := exec_stream_goes_on hi h ht
    have same : ∀ j, Consuming j t → i = j := by
      rintro j ⟨-, -, hj⟩
      rw [hcmdr, hd] at hj
      cases hj
      rfl
    refine ⟨fun _ _ => ⟨i, hcmdr ▸ hd, hi⟩, fun _ hf => ?_, hcode, fun hw => ?_, fun hw => ?_⟩
    · rw [herr] at hf
      rw [(hc.faulted hb hf).1] at hd
      cases hd
      cases hi
    · obtain rfl := same _ hw
      have := exec_decompress_walking ha hc hb hd h ht
      exact ⟨this.tree, this.cur⟩
    · obtain rfl := same _ hw
      have := exec_compress_writing hc hb hd h ht
      exact ⟨this.clear, this.reported⟩

end Control

section Events

variable {s t : State}

theorem EngineInv.build (h : EngineInv s) : BuildInv s := ⟨h.sched, h.arena⟩

/-- The invariant does not speak of the queues, the counters `FREQ` or the model's own fields. -/
theorem EngineInv.of_host (h : EngineInv s) (f : Vector Freq 128) (q : List Item) (o : List Byte) (l : List HostOp)
    (d : List Turn) (r : List Response) :
    EngineInv { s with freq := f, inq := q, outq := o, host := l, sched := d, resps := r } := by
  obtain ⟨hs, ha, ht, hc⟩ := h
  exact ⟨hs.of_eq rfl rfl rfl, ha.of_eq rfl rfl rfl id, ht.of_eq rfl rfl,
    ⟨hc.running, hc.faulted, hc.code, hc.walk, hc.writer⟩⟩

theorem reset_engineInv : EngineInv State.reset :=
  ⟨reset_buildInv.sched, reset_buildInv.arena, ⟨Fits.empty, Nat.zero_le _⟩, .of_idle rfl (Nat.zero_le _)⟩

theorem resetEngine_engineInv (s : State) : EngineInv (resetEngine s) :=
  reset_engineInv.of_host _ _ _ _ _ _

/-- The acceptance of a command keeps the invariant (R103). -/
theorem EngineInv.loadCommand {w : Word} (h : EngineInv s) (hw : s.err = 0#8 ∨ w = 0x00000001#32) :
    EngineInv (loadCommand w s) := by
  obtain ⟨hs, ha, ht, hc⟩ := h
  refine ⟨hs.of_eq rfl rfl rfl, ha.of_eq rfl rfl rfl id, ht.of_eq rfl rfl, ⟨nofun, fun _ hf => ?_, hc.code, ?_, ?_⟩⟩
  · exact ⟨hw.resolve_left hf, rfl⟩
  · exact fun hr => by cases hr.2.1
  · exact fun hr => by cases hr.2.1

theorem engineStep_engineInv (hs : EngineInv s) (h : engineStep s = .next t) : EngineInv t := by
  obtain ⟨-, rfl⟩ | ⟨i, he, hd, h⟩ | ⟨w, -, -, rfl⟩ := engineStep_cases h
  · exact hs
  · have hb : s.busy = true := by
      rw [State.engineEnabled, Bool.and_eq_true] at he
      exact he.1
    have hbuild := exec_build hs.build hs.table h
    exact ⟨hbuild.sched, hbuild.arena, exec_table hs.table h, exec_control hs.arena hs.control hb hd h⟩
  · exact ⟨hs.sched.of_eq rfl rfl rfl, hs.arena.of_eq rfl rfl rfl id, hs.table.of_eq rfl rfl,
      .of_idle rfl (code_le .illegalCmd)⟩

theorem deliver_engineInv {r : Response} (hs : EngineInv s) : EngineInv (deliver (r, s)) := hs.of_host _ _ _ _ _ _

theorem memRead_engineInv (addr : Addr) (size : Nat) (hs : EngineInv s) : EngineInv (memRead addr size s).2 := by
  obtain h | h := memRead_cases (addr := addr) (size := size) (s := s) <;> rw [h]
  exacts [hs, hs.of_host _ _ _ _ _ _]

theorem memWrite_engineInv (addr : Addr) (size : Nat) (v : Word) (hs : EngineInv s) :
    EngineInv (memWrite addr size v s).2 := by
  obtain h | ⟨-, h⟩ | ⟨-, hw, -, h⟩ | h | ⟨c, -, h⟩ := memWrite_cases (addr := addr) (size := size) (v := v) (s := s) <;> rw [h]
  exacts [hs, resetEngine_engineInv s, hs.loadCommand hw, hs.of_host _ _ _ _ _ _, hs.of_host _ _ _ _ _ _]

theorem hostStep_engineInv (hs : EngineInv s) : EngineInv (hostStep s) := by
  have hrest : ∀ l, EngineInv { s with host := l } := fun l => hs.of_host _ _ _ _ _ _
  obtain ⟨-, h⟩ | ⟨addr, size, l, -, h⟩ | ⟨addr, size, v, l, -, h⟩ | ⟨addr, l, -, h⟩ := hostStep_cases (s := s) <;> rw [h]
  · exact hs
  · exact deliver_engineInv (memRead_engineInv addr size (hrest l))
  · exact deliver_engineInv (memWrite_engineInv addr size v (hrest l))
  · exact deliver_engineInv ((memRead_engineInv addr 4 hs).of_host _ _ _ _ _ _)

/-- Settles O56: nothing is held, no code has a bit, and the engine is idle. -/
theorem resetMeetsTheInvariant : Obligations.ResetMeetsTheInvariant := reset_engineInv

/-- Settles O57: each agent's step and the reset input keep it. -/
theorem everyEventKeepsTheInvariant : Obligations.EveryEventKeepsTheInvariant := by
  intro s t hs h
  have hturn : ∀ d, EngineInv { s with sched := d } := fun d => hs.of_host _ _ _ _ _ _
  obtain ⟨-, -, h⟩ | ⟨-, -, rfl⟩ | ⟨d, ⟨-, rfl⟩ | ⟨-, h⟩ | ⟨-, rfl⟩⟩ := step_cases h
  · exact engineStep_engineInv hs h
  · exact hostStep_engineInv hs
  · exact hostStep_engineInv (hturn d)
  · exact engineStep_engineInv (hturn d) h
  · exact resetEngine_engineInv _

/-- The fault recorded in `s` still stands in `t`, or is cleared there (R26). -/
def FaultKept (s t : State) : Prop := (t.err = s.err ∧ t.errinfo = s.errinfo) ∨ (t.err = 0#8 ∧ t.errinfo = 0#32)

theorem memRead_faultKept (addr : Addr) (size : Nat) (s : State) : FaultKept s (memRead addr size s).2 := by
  obtain h | h := memRead_cases (addr := addr) (size := size) (s := s) <;> rw [h] <;> exact .inl ⟨rfl, rfl⟩

theorem memWrite_faultKept (addr : Addr) (size : Nat) (v : Word) (s : State) : FaultKept s (memWrite addr size v s).2 := by
  obtain h | ⟨-, h⟩ | ⟨-, -, -, h⟩ | h | ⟨c, -, h⟩ := memWrite_cases (addr := addr) (size := size) (v := v) (s := s) <;> rw [h]
  exacts [.inl ⟨rfl, rfl⟩, .inr ⟨rfl, rfl⟩, .inl ⟨rfl, rfl⟩, .inl ⟨rfl, rfl⟩, .inl ⟨rfl, rfl⟩]

theorem hostStep_faultKept (s : State) : FaultKept s (hostStep s) := by
  obtain ⟨-, h⟩ | ⟨addr, size, l, -, h⟩ | ⟨addr, size, v, l, -, h⟩ | ⟨addr, l, -, h⟩ := hostStep_cases (s := s) <;> rw [h]
  · exact .inl ⟨rfl, rfl⟩
  · exact memRead_faultKept addr size { s with host := l }
  · exact memWrite_faultKept addr size v { s with host := l }
  · exact memRead_faultKept addr 4 s

/-- With a fault recorded an engine step is that of `CLRERR`, or none (R103). -/
theorem engineStep_faultKept (hs : ControlInv s) (hf : s.err ≠ 0#8) (h : engineStep s = .next t) : FaultKept s t := by
  have clrerr : s.engineEnabled = true → decode s.cmdr = .ok .clrerr := fun he => by
    rw [State.engineEnabled, Bool.and_eq_true] at he
    rw [(hs.faulted he.1 hf).1]
    rfl
  obtain ⟨-, rfl⟩ | ⟨i, he, hd, h⟩ | ⟨w, he, hd, -⟩ := engineStep_cases h
  · exact .inl ⟨rfl, rfl⟩
  · rw [clrerr he] at hd
    cases hd
    cases h
    exact .inr ⟨rfl, rfl⟩
  · rw [clrerr he] at hd
    cases hd

/-- Settles O37: a host access clears a fault with `SRST` or leaves it, and the engine runs nothing but `CLRERR` then. -/
theorem recordedFaultIsNeverOverwritten : Obligations.RecordedFaultIsNeverOverwritten := by
  intro s t hs hf h
  have hturn : ∀ d, ControlInv { s with sched := d } := fun d =>
    (hs.of_host s.freq s.inq s.outq s.host d s.resps).control
  obtain ⟨-, -, h⟩ | ⟨-, -, rfl⟩ | ⟨d, ⟨-, rfl⟩ | ⟨-, h⟩ | ⟨-, rfl⟩⟩ := step_cases h
  · exact engineStep_faultKept hs.control hf h
  · exact hostStep_faultKept s
  · exact hostStep_faultKept { s with sched := d }
  · exact engineStep_faultKept (s := { s with sched := d }) (hturn d) hf h
  · exact .inr ⟨rfl, rfl⟩

end Events

end Sys2Proof.Machine
end

section
/-! SUPPORT. The register port's rows (spec/10_state.md R22 to R37, spec/20_memory.md R64 to R68): an access that reaches a
register is that register's row, and the words of the rows bit by bit. -/

namespace Sys2Proof.Machine

section Access

variable {addr : Addr} {s : State} {r : Reg} {v w : Word}

/-- An access reaches the register at its address, where the register lets it and is not hidden (R64). -/
theorem reach_eq {refusing : Rights} (ha : addr.toNat % 4 = 0) (hr : regAt addr.toNat s.nn = some r)
    (hn : r.rights ≠ refusing) (hb : s.busy = false ∨ r.visibleWhileBusy = true) : reach s addr 4 refusing = some r := by
  have hv : (s.busy && !r.visibleWhileBusy) = false := by
    obtain hb | hb := hb <;> simp [hb]
  simp [reach, accessWellFormed, ha, hr, hn, hv]

theorem reach_refused {refusing : Rights} (hn : ∀ r, regAt addr.toNat s.nn = some r → r.rights = refusing) :
    reach s addr 4 refusing = none := by
  unfold reach
  split
  · split
    · rfl
    · next hr => exact if_pos (hn _ hr)
  · rfl

theorem memRead_eq (ha : addr.toNat % 4 = 0) (hr : regAt addr.toNat s.nn = some r) (hn : r.rights ≠ .writeOnly)
    (hb : s.busy = false ∨ r.visibleWhileBusy = true) (hw : readReg s r = some w) :
    memRead addr 4 s = (.data w, readEffect s r) := by
  simp [memRead, reach_eq ha hr hn hb, hw]

theorem memWrite_eq (ha : addr.toNat % 4 = 0) (hr : regAt addr.toNat s.nn = some r) (hn : r.rights ≠ .readOnly)
    (hb : s.busy = false ∨ r.visibleWhileBusy = true) : memWrite addr 4 v s = writeReg r v s := by
  simp [memWrite, reach_eq ha hr hn hb]

theorem memRead_refused (hn : ∀ r, regAt addr.toNat s.nn = some r → r.rights = .writeOnly) :
    memRead addr 4 s = (.busErr, s) := by
  simp [memRead, reach_refused hn]

theorem memWrite_refused (hn : ∀ r, regAt addr.toNat s.nn = some r → r.rights = .readOnly) :
    memWrite addr 4 v s = (.busErr, s) := by
  simp [memWrite, reach_refused hn]

/-- The address of a counter (R66). -/
theorem regAt_freq {a nn : Nat} (c : Symbol) (h : a = 0x400 + 4 * c.val) : regAt a nn = some (.freq c) := by
  have hc : indexOf ((a - 0x400) / 4) = c := Fin.ext (by simp only [indexOf]; omega)
  rw [regAt, if_neg (by omega), if_pos (by omega), hc]

/-- The addresses of a table slot (R66). -/
theorem regAt_slot {a nn k : Nat} (c : Symbol) (hk : k < 8) (h : a = 0x1000 + 32 * c.val + 4 * k) :
    regAt a nn = some (slotReg c k) := by
  have hc : indexOf ((a - 0x1000) / 32) = c := Fin.ext (by simp only [indexOf]; omega)
  have hk' : (a - 0x1000) % 32 / 4 = k := by omega
  rw [regAt, if_neg (by omega), if_neg (by omega), if_pos (by omega), hc, hk']

/-- The addresses of a node: a node at or above `NN` has none (R64 step 2, R66). -/
theorem regAt_node {a nn n : Nat} (m : Fin 4) (h : a = 0x40000 + 16 * n + 4 * m.val) :
    regAt a nn = if n < nn then some (.node (BitVec.ofNat 14 n) m) else none := by
  have hn : (a - 0x40000) / 16 = n := by omega
  have hm : (⟨(a - 0x40000) / 4 % 4, Nat.mod_lt _ (by decide)⟩ : Fin 4) = m := Fin.ext (by simp only; omega)
  rw [regAt, if_neg (by omega), if_neg (by omega), if_neg (by omega)]
  simp only [hn, hm]
  simp [show 0x40000 ≤ a by omega]

end Access

section Bits

theorem getLsbD_flagBit (b : Bool) (k : Nat) : (flagBit b).getLsbD k = (decide (k = 0) && b) := by
  cases b <;> cases k <;> simp [flagBit]

theorem getLsbD_flagBit_shift (b : Bool) {n : Nat} (hn : n < 32) (k : Nat) :
    (flagBit b <<< n).getLsbD k = (decide (k = n) && b) := by
  rw [BitVec.getLsbD_shiftLeft, getLsbD_flagBit]
  by_cases hk : k = n
  · simp [hk, hn]
  · by_cases hlt : k < n
    · simp [hlt, hk]
    · simp [show ¬ k - n = 0 by omega, hk]

/-- Every bit of `STATUS` (R25). -/
theorem getLsbD_status (s : State) (k : Nat) :
    s.status.getLsbD k = ((decide (k = 0) && s.busy) || (decide (k = 1) && s.faulted) || (decide (k = 2) && s.treeValid) ||
      (decide (k = 3) && s.tableValid) || (decide (k = 4) && s.inq.isEmpty) || (decide (k = 5) && !s.outq.isEmpty) ||
      (decide (k = 6) && s.warn)) := by
  simp only [State.status, BitVec.getLsbD_or, getLsbD_flagBit, getLsbD_flagBit_shift, Nat.reduceLT]

theorem high_append_low (c : Count) : highHalf c ++ lowHalf c = c := BitVec.extractLsb'_append_extractLsb'

theorem prio_words (p : Prio) : (prioHighWord p).toNat = p.toNat / 2 ^ 32 ∧ (prioLowWord p).toNat = p.toNat % 2 ^ 32 := by
  have := p.isLt
  constructor
  · simp only [prioHighWord, BitVec.zeroExtend, BitVec.toNat_setWidth, BitVec.extractLsb'_toNat, Nat.shiftRight_eq_div_pow]
    omega
  · simp [prioLowWord, BitVec.extractLsb'_toNat]

/-- Every bit of the register `ROOT` (R30). -/
theorem getLsbD_rootWord (s : State) (k : Nat) :
    s.rootWord.getLsbD k = (s.root.getLsbD k || (decide (k = 31) && s.treeValid)) := by
  rw [State.rootWord, BitVec.getLsbD_or, getLsbD_flagBit_shift _ (by decide), BitVec.zeroExtend, BitVec.getLsbD_setWidth]
  by_cases hk : k < 32
  · simp [hk]
  · simp [hk, BitVec.getLsbD_of_ge s.root k (by omega)]

/-- A number written most significant bit first has the sequence's bits, last one least significant. -/
theorem testBit_foldl (bits : List Bool) (i : Nat) :
    ((bits.map Bool.toNat).foldl (fun v b => 2 * v + b) 0).testBit i = bits.reverse.getD i false := by
  induction bits using List.reverseRecOn generalizing i with
  | nil => simp
  | append_singleton bits b ih =>
    simp only [List.map_append, List.map_cons, List.map_nil, List.foldl_append, List.foldl_cons, List.foldl_nil,
      List.reverse_append, List.reverse_cons, List.reverse_nil, List.nil_append, List.cons_append]
    cases i with
    | zero => cases b <;> simp [Nat.testBit_zero]
    | succ i =>
      rw [Nat.testBit_succ, List.getD_cons_succ, ← ih]
      congr 1
      cases b
      · simp
      · simp
        omega

/-- The code stands left-aligned in the 128-bit number of R35. -/
theorem getLsbD_codeBits {c : Code} (hc : c.length ≤ 128) {i : Nat} (hi : i < 128) :
    (codeBits c).getLsbD i = c.getD (127 - i) false := by
  rw [codeBits, BitVec.getLsbD_ofNat, Nat.testBit_mul_two_pow, testBit_foldl]
  by_cases h : 128 - c.length ≤ i
  · have hlt : i - (128 - c.length) < c.length := by omega
    have hrev : c.length - 1 - (i - (128 - c.length)) = 127 - i := by omega
    simp [hi, h, List.getD_eq_getElem?_getD, List.getElem?_reverse hlt, hrev]
  · have hge : c.length ≤ 127 - i := by omega
    simp [h, hge]

end Bits

section Rows

/-- The register's word of a node's first row (R36): symbol and child presence. -/
theorem getLsbD_nodeWord_zero (nd : Node) (k : Nat) :
    (nodeWord nd 0).getLsbD k =
      (nd.sym.getLsbD k || (decide (k = 8) && nd.left.isSome) || (decide (k = 9) && nd.right.isSome)) := by
  simp only [nodeWord, BitVec.getLsbD_or, getLsbD_flagBit_shift, Nat.reduceLT, BitVec.zeroExtend, BitVec.getLsbD_setWidth]
  by_cases hk : k < 32
  · simp [hk]
  · simp [hk, BitVec.getLsbD_of_ge nd.sym k (by omega)]

theorem nodeWord_one (nd : Node) :
    nodeWord nd 1 = ((nd.right.getD 0#14).setWidth 16 ++ (nd.left.getD 0#14).setWidth 16 : BitVec 32) := by
  refine BitVec.eq_of_getLsbD_eq fun k hk => ?_
  rw [nodeWord, BitVec.getLsbD_or, BitVec.getLsbD_shiftLeft, BitVec.getLsbD_append]
  simp only [BitVec.zeroExtend, BitVec.getLsbD_setWidth]
  by_cases hlow : k < 16
  · simp [hlow, hk]
  · simp [hlow, hk, show k - 16 < 16 by omega, show k - 16 < 32 by omega, BitVec.getLsbD_of_ge (nd.left.getD 0#14) k (by omega)]

theorem slotReg_bits (c : Symbol) (j : Fin 4) : slotReg c (j.val + 1) = .ctBits c j := by fin_cases j <;> rfl

theorem slotReg_zero (c : Symbol) (j : Fin 3) : slotReg c (j.val + 5) = .ctZero c j := by fin_cases j <;> rfl

/-- The eight words of a table slot: the length, four of the code's bits, three of zeros (R35). -/
theorem slot_cases {k : Nat} (hk : k < 8) : k = 0 ∨ (∃ j : Fin 4, k = j.val + 1) ∨ ∃ j : Fin 3, k = j.val + 5 := by
  obtain rfl | h : k = 0 ∨ 1 ≤ k := by omega
  · exact .inl rfl
  · by_cases h4 : k ≤ 4
    · exact .inr (.inl ⟨⟨k - 1, by omega⟩, (Nat.sub_add_cancel h).symm⟩)
    · exact .inr (.inr ⟨⟨k - 5, by omega⟩, (Nat.sub_add_cancel (by omega)).symm⟩)

/-- Reset leaves the rows of R44. -/
theorem atReset_resetEngine (s : State) : AtReset (resetEngine s) where
  freq c := by simp [State.freqAt, State.reset]
  scheduler := ⟨rfl, rfl⟩
  arena := ⟨rfl, rfl⟩
  table c := by simp [State.codeAt, State.reset]
  flags := ⟨rfl, rfl, rfl⟩
  command := ⟨rfl, rfl⟩
  fault := ⟨rfl, rfl, rfl⟩
  counters := ⟨rfl, rfl, rfl⟩
  queues := ⟨rfl, rfl⟩
  writer := ⟨rfl, rfl⟩
  reader := ⟨rfl, rfl, rfl⟩
  parser := ⟨rfl, rfl, rfl⟩
  statusWord := (by decide : State.reset.status = 0x00000010#32)

/-- Settles O3: both states are the reset function's. -/
theorem resetHoldsTheListedValues : Obligations.ResetHoldsTheListedValues := by
  refine ⟨atReset_resetEngine State.reset, fun s => ?_⟩
  rw [memWrite_eq (r := .cmd) rfl rfl (by decide) (.inr rfl), writeReg, writeCmd, if_pos rfl]
  exact atReset_resetEngine s

/-- Settles O42: both addresses reach their register at any time, and each row is read off `writeReg` and `readReg`. -/
theorem streamRegistersQueueAndPop : Obligations.StreamRegistersQueueAndPop := by
  intro s w
  have hin : memWrite 0x00040#20 4 w s = (.ok, { s with inq := s.inq ++ [itemOf w] }) :=
    memWrite_eq (r := .inData) rfl rfl (by decide) (.inr rfl)
  have hout : ∀ v, readReg s .outData = some v → memRead 0x00044#20 4 s = (.data v, { s with outq := s.outq.tail }) :=
    fun v hv => memRead_eq (r := .outData) rfl rfl (by decide) (.inr rfl) hv
  refine ⟨fun h => ?_, fun h => ?_, ?_, ?_, fun b q h => ?_, fun h => ?_⟩
  · rw [hin, itemOf, h]
    simp [BitVec.setWidth_eq_extractLsb']
  · rw [hin, itemOf, h]
    rfl
  · exact memRead_refused fun r hr => by cases hr; rfl
  · exact memWrite_refused fun r hr => by cases hr; rfl
  · rw [hout _ (by rw [readReg, h]), h]
    rfl
  · rw [hout _ (by rw [readReg, h]), h]
    congr
    exact h.symm

/-- Settles O44: the word is `State.status`, whose bits `getLsbD_status` gives. -/
theorem statusShowsTheFlags : Obligations.StatusShowsTheFlags := by
  have hread : ∀ s, memRead 0x00004#20 4 s = (.data s.status, s) := fun s =>
    memRead_eq (r := .status) rfl rfl (by decide) (.inr rfl) rfl
  refine ⟨fun s => ⟨⟨s.status, hread s, ?_⟩, fun v => memWrite_refused fun r hr => by cases hr; rfl⟩, hread State.reset⟩
  refine ⟨?_, ?_, ?_, ?_, ?_, ?_, ?_, fun k hk => ?_⟩ <;> rw [getLsbD_status]
  case refine_8 =>
    simp
    omega
  all_goals simp [State.faulted]

/-- Settles O45: each address reaches its register, and each word is read bit by bit or as a number. -/
theorem countersAndHeadsReadBack : Obligations.CountersAndHeadsReadBack := by
  intro s
  have always : ∀ {addr : Addr} {r : Reg} {w : Word}, addr.toNat % 4 = 0 → regAt addr.toNat s.nn = some r →
      r.visibleWhileBusy = true → r.rights ≠ .writeOnly → readReg s r = some w → readEffect s r = s →
      memRead addr 4 s = (.data w, s) := fun ha hr hv hn hw he => by
    rw [memRead_eq ha hr hn (.inr hv) hw, he]
  refine ⟨?_, ?_, ?_, ?_, ?_, ?_, fun hb => ?_⟩
  · refine ⟨_, always rfl rfl rfl (by decide) rfl rfl, by simp, fun k hk => ?_⟩
    simp [BitVec.getLsbD_of_ge s.err k hk]
  · exact always rfl rfl rfl (by decide) rfl rfl
  · refine ⟨_, always rfl rfl rfl (by decide) rfl rfl, ?_, fun k hk => ?_⟩
    · rw [getLsbD_flagBit]
      rfl
    · rw [getLsbD_flagBit, decide_eq_false (by omega), Bool.false_and]
  · exact ⟨_, _, always rfl rfl rfl (by decide) rfl rfl, always rfl rfl rfl (by decide) rfl rfl, high_append_low _⟩
  · exact ⟨_, _, always rfl rfl rfl (by decide) rfl rfl, always rfl rfl rfl (by decide) rfl rfl, high_append_low _⟩
  · exact ⟨_, _, always rfl rfl rfl (by decide) rfl rfl, always rfl rfl rfl (by decide) rfl rfl, high_append_low _⟩
  · have idle : ∀ {addr : Addr} {r : Reg} {w : Word}, addr.toNat % 4 = 0 → regAt addr.toNat s.nn = some r →
        r.rights ≠ .writeOnly → readReg s r = some w → readEffect s r = s → memRead addr 4 s = (.data w, s) :=
      fun ha hr hn hw he => by rw [memRead_eq ha hr hn (.inl hb) hw, he]
    refine ⟨fun hn => ?_, ?_, fun hn => ?_, ?_⟩
    · refine ⟨_, idle rfl rfl (by decide) rfl rfl, ?_⟩
      simp [State.heapCountWord]
      omega
    · refine ⟨_, _, idle rfl rfl (by decide) rfl rfl, idle rfl rfl (by decide) rfl rfl, ?_⟩
      obtain ⟨hh, hl⟩ := prio_words (peekMinPriority s)
      omega
    · have hcap : Config.nodeCap = 16257 := rfl
      refine ⟨_, idle rfl rfl (by decide) rfl rfl, ?_⟩
      simp [State.nodeCountWord]
      omega
    · refine ⟨_, idle rfl rfl (by decide) rfl rfl, ?_, ?_, fun k hk hk' => ?_⟩
      · refine BitVec.eq_of_getLsbD_eq fun k hk => ?_
        simp only [BitVec.getLsbD_setWidth, getLsbD_rootWord]
        simp [hk, show k ≠ 31 by omega]
      · rw [getLsbD_rootWord, BitVec.getLsbD_of_ge s.root 31 (by decide)]
        rfl
      · simp [getLsbD_rootWord, hk', BitVec.getLsbD_of_ge s.root k hk]

/-- Settles O46: both accesses reach `FREQ[c]`. -/
theorem freqWindowReadsBack : Obligations.FreqWindowReadsBack := by
  intro s c addr v hb ha
  have hal : addr.toNat % 4 = 0 := by omega
  have hv : (s.setFreq c v).freqAt c = v := by simp [freqAt_setFreq]
  refine ⟨s.setFreq c v, ?_, ?_, hv, fun d hd => ?_, rfl⟩
  · exact memWrite_eq hal (regAt_freq c ha) nofun (.inl hb)
  · exact memRead_eq hal (regAt_freq c ha) nofun (.inl hb) (by rw [readReg, hv])
  · simp [freqAt_setFreq, hd.symm]

/-- Settles O47: the eight words are the length, four parts of the left-aligned code, and zeros. -/
theorem tableWindowIsLeftAligned : Obligations.TableWindowIsLeftAligned := by
  intro s c addr k hb hc hk ha
  have hrow : ∀ w, readReg s (slotReg c k) = some w → readEffect s (slotReg c k) = s →
      (slotReg c k).rights ≠ .writeOnly → memRead addr 4 s = (.data w, s) := fun w hw he hn => by
    rw [memRead_eq (by omega) (regAt_slot c hk ha) hn (.inl hb) hw, he]
  have hbits : ∀ j : Fin 4, ∀ i, i < 32 →
      (codeBitsWord (s.codeAt c) j).getLsbD i = (s.codeAt c).getD (127 - (32 * j.val + i)) false := fun j i hi => by
    rw [codeBitsWord, BitVec.getLsbD_extractLsb', getLsbD_codeBits (by omega) (by omega)]
    simp [hi]
  obtain rfl | ⟨j, rfl⟩ | ⟨j, rfl⟩ := slot_cases hk
  · refine ⟨_, hrow _ rfl rfl nofun, fun _ => ?_, fun h => absurd h (by decide), fun h => absurd h (by decide)⟩
    simp [codeLenWord]
    omega
  · rw [slotReg_bits] at hrow
    refine ⟨_, hrow _ rfl rfl nofun, fun h => absurd h (Nat.succ_ne_zero _), fun _ _ => hbits j, fun h => ?_⟩
    omega
  · rw [slotReg_zero] at hrow
    exact ⟨_, hrow _ rfl rfl nofun, fun h => absurd h (Nat.succ_ne_zero _), fun _ h => by omega, fun _ => rfl⟩

/-- Settles O48: the address reaches the node exactly when it is below `NN`, and the four words are `nodeWord`'s. -/
theorem nodeWindowShowsTheFields : Obligations.NodeWindowShowsTheFields := by
  intro s n m addr hb hm ha
  have hreg := regAt_node (nn := s.nn) ⟨m, hm⟩ ha
  refine ⟨fun v => ?_, fun hn => ?_, fun nd hcap hnd => ?_⟩
  · refine memWrite_refused fun r hr => ?_
    rw [hreg] at hr
    split at hr <;> cases hr
    rfl
  · refine memRead_refused fun r hr => ?_
    rw [hreg, if_neg (not_lt.2 hn)] at hr
    cases hr
  · have hlt : n < s.nn := (List.getElem?_eq_some_iff.1 hnd).1
    rw [if_pos hlt] at hreg
    have hat : nodeAt s.arena (BitVec.ofNat 14 n) = some nd := by
      rw [nodeAt, nodeIdx_toNat (by omega), hnd]
    refine ⟨nodeWord nd ⟨m, hm⟩, memRead_eq (by omega) hreg nofun (.inl hb) (by rw [readReg, hat]; rfl), ?_⟩
    refine ⟨?_, ?_, ?_, ?_⟩ <;> rintro rfl
    · refine ⟨BitVec.eq_of_getLsbD_eq fun k hk => ?_, ?_, ?_, fun k hk => ?_⟩
      · rw [BitVec.getLsbD_setWidth, decide_eq_true hk, Bool.true_and]
        refine (getLsbD_nodeWord_zero nd k).trans ?_
        simp [show k ≠ 8 by omega, show k ≠ 9 by omega]
      · refine (getLsbD_nodeWord_zero nd 8).trans ?_
        simp
      · refine (getLsbD_nodeWord_zero nd 9).trans ?_
        simp
      · refine (getLsbD_nodeWord_zero nd k).trans ?_
        simp [show k ≠ 8 by omega, show k ≠ 9 by omega, BitVec.getLsbD_of_ge nd.sym k (by omega)]
    · exact nodeWord_one nd
    · exact (BitVec.setWidth_eq_extractLsb' (by decide)).symm
    · exact (prio_words nd.freq).1

end Rows

end Sys2Proof.Machine
end

section
/-! SUPPORT. No step stops the machine (spec/20_memory.md R83): which piece of pseudocode goes on whatever the state, and
why the invariant keeps the three that could stop (the walk of `GEN`, a node's read, the bit reader) in range. At the end,
what an engine event runs (R62) and when it ends a command (R63). -/

namespace Sys2Proof.Machine

section NotStuck

variable {α β : Type}

/-- A piece of pseudocode that ends with a value or at a `raise`. -/
abbrev Res.NotStuck (r : Res α) : Prop := ∀ f, r ≠ .stuck f

theorem Res.notStuck_ok (a : α) (s : State) : (Res.ok a s).NotStuck := nofun

theorem Res.NotStuck.andThen {r : Res α} {k : α → State → Res β} (h : r.NotStuck)
    (hk : ∀ a t, r = .ok a t → (k a t).NotStuck) : (r.andThen k).NotStuck := fun f hf =>
  (Res.andThen_eq_stuck.1 hf).elim (h f) fun ⟨a, t, ha, hs⟩ => hk a t ha f hs

/-- What a piece of pseudocode ensures holds of the value and the state it ends with. -/
theorem Res.Ensures.of_ok {Q : α → State → Prop} {R : State → Prop} {r : Res α} {a : α} {t : State} (h : r.Ensures Q R)
    (hr : r = .ok a t) : Q a t := by
  rwa [hr] at h

/-- A loop over a list that no iteration gets stuck in, with an invariant as in `forEach_ensures`. -/
theorem forEach_notStuck {body : α → State → Res Unit} {P : List α → State → Prop}
    (hb : ∀ x xs s, P (x :: xs) s → (body x s).NotStuck)
    (hp : ∀ x xs s t, P (x :: xs) s → body x s = .ok () t → P xs t) (xs : List α) (s : State) (hs : P xs s) :
    (forEach body xs s).NotStuck := by
  induction xs generalizing s with
  | nil => exact nofun
  | cons x xs ih => exact (hb x xs s hs).andThen fun _ t ht => ih t (hp x xs s t hs ht)

/-- A counted loop that no round gets stuck in, with an invariant as in `repeatTimes_ensures`. -/
theorem repeatTimes_notStuck {body : State → Res Unit} {P : Nat → State → Prop}
    (hb : ∀ n s, P (n + 1) s → (body s).NotStuck) (hp : ∀ n s t, P (n + 1) s → body s = .ok () t → P n t) (n : Nat)
    (s : State) (hs : P n s) : (repeatTimes body n s).NotStuck := by
  induction n generalizing s with
  | zero => exact nofun
  | succ n ih => exact (hb n s hs).andThen fun _ t ht => ih t (hp n s t hs ht)

theorem removeMin_not_stuck {s : State} {f : Fault} : removeMin s ≠ .stuck f := by
  unfold removeMin
  split <;> exact nofun

theorem putByte_not_stuck {b : Byte} {s : State} {f : Fault} : putByte b s ≠ .stuck f := by
  unfold putByte
  split <;> exact nofun

/-- A read of a node below `NN` gives the node (R32, R83). -/
theorem readNode_notStuck {n : NodeIdx} {s : State} (h : n.toNat < s.nn) : (readNode n s).NotStuck := by
  obtain ⟨nd, hnd⟩ := nodeAt_isSome.2 h
  intro f hf
  rw [(readNode_eq_stuck.1 hf).1] at hnd
  cases hnd

theorem child_mem_children {nd : Node} {bit : Bool} {n : NodeIdx} (h : nd.child bit = some n) : n ∈ nd.children := by
  cases bit <;> simp_all [Node.child, Node.children]

end NotStuck

section Rules

variable {s : State}

theorem seedLeaf_notStuck (c : Symbol) (s : State) : (seedLeaf c s).NotStuck :=
  Res.NotStuck.andThen (fun _ => alloc_not_stuck) fun _ _ _ _ => insert_not_stuck

theorem hseedRule_notStuck (s : State) : (hseedRule s).NotStuck :=
  forEach_notStuck (P := fun _ _ => True) (fun c _ s _ => seedLeaf_notStuck c s) (fun _ _ _ _ _ _ => trivial) _ _ trivial

theorem hmergeRule_notStuck (s : State) : (hmergeRule s).NotStuck := by
  rw [hmergeRule]
  split
  · exact nofun
  · exact Res.NotStuck.andThen (fun _ => removeMin_not_stuck) fun _ _ _ =>
      Res.NotStuck.andThen (fun _ => removeMin_not_stuck) fun _ _ _ =>
      Res.NotStuck.andThen (fun _ => alloc_not_stuck) fun _ _ _ _ => insert_not_stuck

theorem htakeRule_notStuck (s : State) : (htakeRule s).NotStuck := by
  rw [htakeRule]
  split
  · exact nofun
  · split
    · exact nofun
    · exact Res.NotStuck.andThen (fun _ => removeMin_not_stuck) fun _ _ _ => nofun

theorem buildRule_notStuck (s : State) : (buildRule s).NotStuck :=
  (hseedRule_notStuck s).andThen fun _ t _ =>
    (repeatTimes_notStuck (P := fun _ _ => True) (fun _ s _ => hmergeRule_notStuck s) (fun _ _ _ _ _ => trivial) _ t
      trivial).andThen fun _ u _ => htakeRule_notStuck u

/-- In an arena whose child links stay below `NN` and go down a ranking, the walk of `GEN` from a node with more fuel than
rank ends (R34, R43, R181). -/
theorem visit_ends {arena : List Node} {rank : Nat → Nat} (hin : ∀ c ∈ childList arena, c.toNat < arena.length)
    (hrank : ∀ n nd, arena[n]? = some nd → ∀ c ∈ nd.children, rank c.toNat < rank n) {fuel : Nat} {n : NodeIdx}
    (hn : n.toNat < arena.length) (hf : rank n.toNat < fuel) (path : Code) (table : Vector Code 128) :
    ∃ table', visit arena fuel n path table = .ok table' := by
  induction fuel generalizing n path table with
  | zero => exact absurd hf (Nat.not_lt_zero _)
  | succ fuel ih =>
    obtain ⟨nd, hnd⟩ := nodeAt_isSome.2 hn
    have child : ∀ {bit c}, nd.child bit = some c → ∀ path table, ∃ table', visit arena fuel c path table = .ok table' :=
      fun hc => ih (hin _ (mem_childList hnd (child_mem_children hc)))
        (Nat.lt_of_lt_of_le (hrank _ nd hnd _ (child_mem_children hc)) (Nat.le_of_lt_succ hf))
    rw [visit, hnd]
    dsimp only
    split
    · exact ⟨_, rfl⟩
    · split
      · next l r hl hr =>
        obtain ⟨table', ht⟩ := child (bit := false) hl (path ++ [false]) table
        rw [ht]
        exact child (bit := true) hr _ _
      · next hl _ => exact child (bit := false) hl _ _
      · next hr => exact child (bit := true) hr _ _
      · exact ⟨_, rfl⟩

theorem genRule_notStuck (ha : ArenaInv s) : (genRule s).NotStuck := by
  rw [genRule]
  split
  · exact nofun
  · next hv =>
    obtain ⟨-, hroot, -, rank, hle, hrank⟩ := ha.tree (Bool.not_eq_false _ ▸ hv)
    obtain ⟨table, ht⟩ := visit_ends ha.inRange hrank hroot (Nat.lt_succ_of_le hle) [] emptyTable
    rw [ht]
    exact nofun

variable {xs : List Symbol} {k : Nat} {cur : NodeIdx}

theorem growStep_notStuck (bit : Bool) (h : Growing xs k cur s) : (growStep cur bit s).NotStuck := by
  refine (readNode_notStuck h.here).andThen fun nd t _ => ?_
  split
  · exact nofun
  · exact Res.NotStuck.andThen (fun _ => alloc_not_stuck) fun _ _ _ => nofun

theorem growPath_notStuck (path : Code) (hk : path.length ≤ k) (h : Growing xs k cur s) :
    (growPath path cur s).NotStuck := by
  induction path generalizing k cur s with
  | nil => exact nofun
  | cons bit rest ih =>
    cases k with
    | zero => exact absurd hk (Nat.not_succ_le_zero _)
    | succ k =>
      exact (growStep_notStuck bit h).andThen fun n t ht =>
        ih (Nat.le_of_succ_le_succ hk) ((growStep_ensures bit h).of_ok ht)

theorem growSymbol_notStuck (c : Symbol) (h : Growing xs 127 0#14 s) : (growSymbol 0#14 c s).NotStuck := by
  rw [growSymbol]
  split
  · exact nofun
  · refine (growPath_notStuck _ (h.codes c) h).andThen fun cur t ht => ?_
    obtain ⟨j, hj⟩ := (growPath_ensures _ (h.codes c) h).of_ok ht
    exact (readNode_notStuck hj.here).andThen fun _ _ _ => nofun

theorem reconRule_notStuck (hc : ∀ c : Symbol, (s.codeAt c).length ≤ 127) : (reconRule s).NotStuck := by
  rw [reconRule]
  split
  · exact nofun
  · refine Res.NotStuck.andThen (fun _ => alloc_not_stuck) fun r t ht => ?_
    obtain ⟨-, rfl, rfl⟩ := alloc_eq_ok.1 ht
    exact (forEach_notStuck (P := fun xs => Growing xs 127 0#14) (fun c _ _ => growSymbol_notStuck c)
      (fun c xs u _ hu => (growSymbol_ensures c xs u hu).of_ok) symbols _ (.begin hc)).andThen fun _ _ _ => nofun

theorem hidumpRule_notStuck (s : State) : (hidumpRule s).NotStuck := by
  rw [hidumpRule]
  split <;> exact nofun

theorem analyzeByte_notStuck (b : Byte) (s : State) : (analyzeByte b s).NotStuck := by
  rw [analyzeByte]
  split <;> split <;> exact nofun

theorem hiloadByte_notStuck (b : Byte) (s : State) : (hiloadByte b s).NotStuck := by
  rw [hiloadByte]
  split
  all_goals repeat' split
  all_goals exact nofun

theorem hiloadEnd_notStuck (s : State) : (hiloadEnd s).NotStuck := by
  rw [hiloadEnd]
  split <;> exact nofun

theorem writeBit_notStuck (bit : Bool) (s : State) : (writeBit bit s).NotStuck := by
  rw [writeBit]
  split
  · exact Res.NotStuck.andThen (fun _ => putByte_not_stuck) fun _ _ _ => nofun
  · exact nofun

theorem compressStart_notStuck (s : State) : (compressStart s).NotStuck := by
  rw [compressStart]
  split
  · exact nofun
  · split <;> exact nofun

theorem compressByte_notStuck (b : Byte) (s : State) : (compressByte b s).NotStuck := by
  rw [compressByte]
  split
  · exact nofun
  · dsimp only
    split
    · exact nofun
    · exact forEach_notStuck (P := fun _ _ => True) (fun bit _ s _ => writeBit_notStuck bit s) (fun _ _ _ _ _ _ => trivial)
        _ _ trivial

theorem compressEnd_notStuck (s : State) : (compressEnd s).NotStuck := by
  rw [compressEnd, flush]
  split
  · exact Res.NotStuck.andThen (fun _ => putByte_not_stuck) fun _ _ _ => nofun
  · exact nofun

theorem decompressStart_notStuck (s : State) : (decompressStart s).NotStuck := by
  rw [decompressStart]
  split <;> exact nofun

/-- A step of the decoder's walk from a node below `NN` reads only nodes below `NN` (R34, R261). -/
theorem bitstep_notStuck (bit : Bool) (hin : ∀ c ∈ childList s.arena, c.toNat < s.nn) (hcur : s.cur.toNat < s.nn) :
    (bitstep bit s).NotStuck := by
  refine (readNode_notStuck hcur).andThen fun nd t ht => ?_
  obtain ⟨hnd, rfl⟩ := readNode_eq_ok.1 ht
  split
  · exact nofun
  · next n hn =>
    have hlt := hin n (mem_childList hnd (child_mem_children hn))
    refine Res.NotStuck.andThen (readNode_notStuck hlt) fun nd' u _ => ?_
    split <;> exact nofun

/-- `DECOMPRESS` between two bits of a byte begun in `s`, with `k` bits of it to come (R262). -/
structure Decoding (s : State) (k : Nat) (u : State) : Prop where
  touched : Touches .decompress s u
  pending : u.rcnt.val = k
  walking : Walking u

theorem Decoding.next {u t : State} (h : Decoding s (k + 1) u) (ht : decodeBit u = .ok () t) : Decoding s k t := by
  obtain ⟨htouched, hpending⟩ := (decodeBit_touches s k u ⟨h.touched, h.pending⟩).of_ok ht
  exact ⟨htouched, hpending, decodeBit_walking h.walking ht⟩

theorem Decoding.notStuck {u : State} (hin : ∀ c ∈ childList s.arena, c.toNat < s.nn) (h : Decoding s (k + 1) u) :
    (decodeBit u).NotStuck := by
  obtain ⟨⟨b, r, n, bs, rfl⟩, hpending, hwalking⟩ := h
  have hne : r ≠ 0 := fun h0 => by simp [h0] at hpending
  rw [decodeBit, readBit_pending hne]
  exact bitstep_notStuck _ hin hwalking.cur

theorem decompressByte_notStuck (b : Byte) (hin : ∀ c ∈ childList s.arena, c.toNat < s.nn) (hw : Walking s) :
    (decompressByte b s).NotStuck :=
  repeatTimes_notStuck (P := Decoding s) (fun _ _ => Decoding.notStuck hin) (fun _ _ _ => Decoding.next) 8 _
    ⟨⟨_, _, _, [], by rw [emit_nil]⟩, rfl, hw.tree, hw.root, hw.cur⟩

end Rules

section Progress

variable {s : State} {i : Instr}

theorem stepEnd_has_next {close : State → State} {r : Res Unit} (h : r.NotStuck) : ∃ t, stepEnd close r = .next t := by
  cases r with
  | ok _ s => exact ⟨close s, rfl⟩
  | raised e w s => exact ⟨takeFault e w s, rfl⟩
  | stuck f => exact absurd rfl (h f)

theorem wholeStep_has_next {rule : State → Res Unit} (h : (rule s).NotStuck) : ∃ t, wholeStep rule s = .next t :=
  stepEnd_has_next h

/-- A stream command's step goes on where each of its rules does, the byte rule being run in `RUN` only. -/
theorem streamStep_has_next {startRule endRule : State → Res Unit} {byteRule : Byte → State → Res Unit}
    (hstart : (startRule s).NotStuck) (hbyte : s.phase = .run → ∀ b q, (byteRule b { s with inq := q }).NotStuck)
    (hend : ∀ u, (endRule u).NotStuck) : ∃ t, streamStep startRule byteRule endRule s = .next t := by
  cases hp : s.phase with
  | start => rw [streamStep_start hp]; exact stepEnd_has_next hstart
  | run =>
    cases hq : s.inq with
    | nil => exact ⟨s, streamStep_held hp hq⟩
    | cons it q =>
      cases it with
      | byte b => rw [streamStep_byte hp hq]; exact stepEnd_has_next (hbyte hp b q)
      | eos => rw [streamStep_eos hp hq]; exact stepEnd_has_next (hend _)

/-- Under the invariant the step of the command in `CMDR` has a next state: no rule of it gets stuck (R83). -/
theorem exec_has_next (hs : EngineInv s) (hb : s.busy = true) (hd : decode s.cmdr = .ok i) : ∃ t, exec i s = .next t := by
  cases i with
  | nop => exact ⟨_, rfl⟩
  | clrerr => exact ⟨_, rfl⟩
  | srst => exact ⟨_, rfl⟩
  | fclr => exact ⟨_, rfl⟩
  | analyze =>
    exact streamStep_has_next (startRule := analyzeStart) (endRule := analyzeEnd) (Res.notStuck_ok _ _)
      (fun _ b _ => analyzeByte_notStuck b _) fun _ => Res.notStuck_ok _ _
  | hseed => exact wholeStep_has_next (hseedRule_notStuck s)
  | hmerge => exact wholeStep_has_next (hmergeRule_notStuck s)
  | htake => exact wholeStep_has_next (htakeRule_notStuck s)
  | build => exact wholeStep_has_next (buildRule_notStuck s)
  | gen => exact wholeStep_has_next (genRule_notStuck hs.arena)
  | recon => exact wholeStep_has_next (reconRule_notStuck hs.table.codes)
  | hidump => exact wholeStep_has_next (hidumpRule_notStuck s)
  | hiload =>
    exact streamStep_has_next (startRule := hiloadStart) (Res.notStuck_ok _ _) (fun _ b _ => hiloadByte_notStuck b _)
      hiloadEnd_notStuck
  | compress =>
    exact streamStep_has_next (compressStart_notStuck s) (fun _ b _ => compressByte_notStuck b _) compressEnd_notStuck
  | decompress =>
    refine streamStep_has_next (endRule := decompressEnd) (decompressStart_notStuck s) (fun hp b q => ?_)
      fun _ => Res.notStuck_ok _ _
    obtain ⟨hv, hcur⟩ := hs.control.walk ⟨hb, hp, hd⟩
    exact decompressByte_notStuck b hs.arena.inRange ⟨hv, (hs.arena.tree hv).2.1, hcur⟩

theorem engineStep_has_next (hs : EngineInv s) : ∃ t, engineStep s = .next t := by
  cases he : s.engineEnabled with
  | false => exact ⟨s, engineStep_idle he⟩
  | true =>
    cases hd : decode s.cmdr with
    | error w => exact ⟨_, engineStep_illegal he hd⟩
    | ok i =>
      rw [engineStep_runs he hd]
      rw [State.engineEnabled, Bool.and_eq_true] at he
      exact exec_has_next hs he.1 hd

/-- Under the invariant every event has a next state: a host access and a reset always do, an engine step by
`engineStep_has_next`. -/
theorem step_has_next (hs : EngineInv s) : ∃ t, step s = .next t := by
  unfold step
  split
  · split
    · exact engineStep_has_next hs
    · exact ⟨_, rfl⟩
  · exact ⟨_, rfl⟩
  · exact engineStep_has_next (hs.of_host _ _ _ _ _ _)
  · exact ⟨_, rfl⟩

/-- Settles O58: the invariant gives a next state (`step_has_next`), which meets it again (O57). -/
theorem runsNeverStop : Obligations.RunsNeverStop := by
  intro s hs n
  induction n generalizing s with
  | zero => exact ⟨s, rfl⟩
  | succ n ih =>
    obtain ⟨t, ht⟩ := step_has_next hs
    rw [run_succ ht]
    exact ih t (everyEventKeepsTheInvariant s t hs ht)

end Progress

section Steps

/-- Settles O54: a fault and the end of the rule each clear `BUSY` (`exec_whole_busy`). -/
theorem nonStreamCommandIsOneStep : Obligations.NonStreamCommandIsOneStep := fun _ _ _ hi h => exec_whole_busy hi h

/-- The column "word" of R101 decodes to its command. -/
theorem decode_encode (i : Instr) : decode (encode i) = .ok i := by cases i <;> rfl

/-- Settles O50: the engine's turn is `engineStep`, and a command's word is not cut by its 32 bits. -/
theorem stepRunsTheDecodedCommand : Obligations.StepRunsTheDecodedCommand := by
  refine ⟨fun s i rest hs he hd => ?_, fun s i hs he hd => ?_, fun s i => ?_⟩
  · rw [step, hs]
    exact engineStep_runs (s := { s with sched := rest }) he hd
  · rw [step, hs]
    dsimp only
    rw [if_pos he, engineStep_runs he hd]
  · rw [State.withFetchWord, Nat.mod_eq_of_lt (encode i).isLt, BitVec.ofNat_toNat, BitVec.setWidth_eq]
    exact engineStep_runs (s := { s with cmdr := encode i, phase := .start, busy := true }) rfl (decode_encode i)

end Steps

end Sys2Proof.Machine
end

section
/-! SUPPORT. What answers `BUSERR` (spec/20_memory.md R64 to R68, R76): the registers of each address range, and an access
turned inside out: where it reaches a register, and what it leaves. -/

namespace Sys2Proof.Machine

section Map

/-- The rows of R66 with one address each. -/
theorem mem_fixedMap {a nn : Nat} {r : Reg} (ha : a < 0x48) (h : regAt a nn = some r) : (a, r) ∈ fixedMap := by
  rw [regAt, if_pos ha] at h
  obtain ⟨l, l', hl, -⟩ := List.lookup_eq_some_iff.1 h
  simp [hl]

/-- The registers of R66 by their address ranges. -/
theorem regAt_cases {a nn : Nat} {r : Reg} (h : regAt a nn = some r) :
    (a < 0x48 ∧ (a, r) ∈ fixedMap) ∨ (0x400 ≤ a ∧ a < 0x600 ∧ ∃ i, r = .freq i) ∨
      (0x1000 ≤ a ∧ a < 0x2000 ∧ ∃ c k, r = slotReg c k) ∨
      (0x40000 ≤ a ∧ a < 0x40000 + 16 * nn ∧ ∃ n m, r = .node n m) := by
  obtain ha | ha := Nat.lt_or_ge a 0x48
  · exact .inl ⟨ha, mem_fixedMap ha h⟩
  · rw [regAt, if_neg (not_lt.2 ha)] at h
    split at h
    · next hf =>
      cases h
      exact .inr (.inl ⟨hf.1, hf.2, _, rfl⟩)
    · split at h
      · next hc =>
        cases h
        exact .inr (.inr (.inl ⟨hc.1, hc.2, _, _, rfl⟩))
      · split at h
        · next hn =>
          cases h
          exact .inr (.inr (.inr ⟨hn.1, by omega, _, _, rfl⟩))
        · cases h

/-- The column "access" of R66 in those rows. -/
theorem fixedMap_rights {a : Nat} {r : Reg} (h : (a, r) ∈ fixedMap) :
    (a = 0x00 ∨ a = 0x40 → r.rights = .writeOnly) ∧ (a ≠ 0x00 → a ≠ 0x40 → r.rights = .readOnly) := by
  have rows : ∀ p ∈ fixedMap,
      (p.1 = 0x00 ∨ p.1 = 0x40 → p.2.rights = .writeOnly) ∧ (p.1 ≠ 0x00 → p.1 ≠ 0x40 → p.2.rights = .readOnly) := by
    decide
  exact rows _ h

/-- The list of R68 in those rows: all but 0x2C to 0x3C. -/
theorem fixedMap_visible {a : Nat} {r : Reg} (h : (a, r) ∈ fixedMap) :
    r.visibleWhileBusy = true ↔ ¬ (0x2C ≤ a ∧ a ≤ 0x3C) := by
  have rows : ∀ p ∈ fixedMap, p.2.visibleWhileBusy = true ↔ ¬ (0x2C ≤ p.1 ∧ p.1 ≤ 0x3C) := by decide
  exact rows _ h

theorem fixedMap_outData {a : Nat} (h : (a, .outData) ∈ fixedMap) : a = 0x44 := by
  have rows : ∀ p ∈ fixedMap, p.2 = .outData → p.1 = 0x44 := by decide
  exact rows _ h rfl

/-- Every multiple of 4 up to 0x44 is the address of a register (R66). -/
theorem regAt_fixed {a nn : Nat} (ha : a < 0x48) (h4 : a % 4 = 0) : ∃ r, regAt a nn = some r := by
  have hmap : ∀ a < 0x48, a % 4 = 0 → (fixedMap.lookup a).isSome = true := by decide
  rw [regAt, if_pos ha]
  exact Option.isSome_iff_exists.1 (hmap a ha h4)

/-- A table slot's words are read-only and hidden while busy, and none is `OUT_DATA` (R66, R68). -/
theorem slotReg_window (c : Symbol) (k : Nat) :
    (slotReg c k).rights = .readOnly ∧ (slotReg c k).visibleWhileBusy = false ∧ slotReg c k ≠ .outData := by
  unfold slotReg
  split <;> exact ⟨rfl, rfl, nofun⟩

/-- A register that is visible while busy and lets itself be read gives a word. -/
theorem readReg_visible {r : Reg} (s : State) (hv : r.visibleWhileBusy = true) (hr : r.rights ≠ .writeOnly) :
    ∃ w, readReg s r = some w := by
  cases r
  case cmd | inData => exact absurd rfl hr
  case heapCount | heapMinLo | heapMinHi | nodeCount | root | freq | ctLen | ctBits | ctZero | node => cases hv
  all_goals exact ⟨_, rfl⟩

theorem readEffect_eq_self {r : Reg} (s : State) (h : r ≠ .outData) : readEffect s r = s := by
  cases r
  case outData => exact absurd rfl h
  all_goals rfl

end Map

section Refusal

variable {addr : Addr} {size : Nat} {v : Word} {s : State}

/-- All that an access needs to reach a register (R64 steps 1 to 4). -/
theorem reach_eq_some {refusing : Rights} {r : Reg} (h : reach s addr size refusing = some r) :
    (size = 4 ∧ addr.toNat % 4 = 0) ∧ regAt addr.toNat s.nn = some r ∧ r.rights ≠ refusing ∧
      (s.busy = true → r.visibleWhileBusy = true) := by
  unfold reach at h
  split at h
  · next hw =>
    split at h
    · cases h
    · next hr =>
      split at h
      · cases h
      · next hn =>
        split at h
        · cases h
        · next hb =>
          cases h
          simp only [accessWellFormed, Bool.and_eq_true, beq_iff_eq] at hw
          exact ⟨hw, hr, hn, fun h => by simpa [h] using hb⟩
  · cases h

/-- A read is answered `BUSERR` and leaves the state, or reaches a register and answers its word. -/
theorem memRead_answers (addr : Addr) (size : Nat) (s : State) :
    memRead addr size s = (.busErr, s) ∨
      ∃ r w, reach s addr size .writeOnly = some r ∧ memRead addr size s = (.data w, readEffect s r) := by
  unfold memRead
  split
  · exact .inl rfl
  · next r hr =>
    split
    · exact .inr ⟨r, _, hr, rfl⟩
    · exact .inl rfl

/-- A write is answered `BUSERR` and leaves the state, or reaches a register and is answered `OK`. -/
theorem memWrite_answers (addr : Addr) (size : Nat) (v : Word) (s : State) :
    memWrite addr size v s = (.busErr, s) ∨
      ∃ r, reach s addr size .readOnly = some r ∧ (memWrite addr size v s).1 = .ok := by
  unfold memWrite
  split
  · exact .inl rfl
  · next r hr =>
    cases r
    case cmd =>
      rw [writeReg, writeCmd]
      split
      · exact .inr ⟨_, hr, rfl⟩
      · split
        · exact .inl rfl
        · split
          · exact .inl rfl
          · exact .inr ⟨_, hr, rfl⟩
    case inData | freq => exact .inr ⟨_, hr, rfl⟩
    all_goals exact .inl rfl

theorem memRead_unreached (h : ∀ r, reach s addr size .writeOnly ≠ some r) : memRead addr size s = (.busErr, s) :=
  (memRead_answers addr size s).resolve_right fun ⟨r, _, hr, _⟩ => h r hr

theorem memWrite_unreached (h : ∀ r, reach s addr size .readOnly ≠ some r) : memWrite addr size v s = (.busErr, s) :=
  (memWrite_answers addr size v s).resolve_right fun ⟨r, hr, _⟩ => h r hr

/-- Where no access reaches a register, both directions are answered `BUSERR`. -/
theorem access_unreached (h : ∀ r refusing, reach s addr size refusing ≠ some r) :
    memRead addr size s = (.busErr, s) ∧ memWrite addr size v s = (.busErr, s) :=
  ⟨memRead_unreached fun r => h r _, memWrite_unreached fun r => h r _⟩

/-- Settles O38: an access that is not refused answers a word or `OK`. -/
theorem busErrorChangesNothing : Obligations.BusErrorChangesNothing := by
  refine fun addr size v s => ⟨fun h => ?_, fun h => ?_⟩
  · obtain hm | ⟨r, w, -, hm⟩ := memRead_answers addr size s <;> rw [hm] at h ⊢
    cases h
  · obtain hm | ⟨r, -, hm⟩ := memWrite_answers addr size v s
    · rw [hm]
    · rw [hm] at h
      cases h

/-- Settles O40: what an access reaches while busy is visible, which the windows are not, and a visible register that can
be read gives a word. -/
theorem windowsAreHiddenWhileBusy : Obligations.WindowsAreHiddenWhileBusy := by
  refine fun addr size v s hb => ⟨fun ha => access_unreached fun r refusing h => ?_, fun h4 ha => ?_⟩
  · obtain ⟨-, hr, -, hv⟩ := reach_eq_some h
    have hv := hv hb
    obtain ⟨hlt, hm⟩ | ⟨-, -, i, rfl⟩ | ⟨-, -, c, k, rfl⟩ | ⟨-, -, n, m, rfl⟩ := regAt_cases hr
    · exact (fixedMap_visible hm).1 hv (by omega)
    · cases hv
    · rw [(slotReg_window c k).2.1] at hv
      cases hv
    · cases hv
  · have hlt : addr.toNat < 0x48 := by omega
    obtain ⟨r, hr⟩ := regAt_fixed (nn := s.nn) hlt h4
    have hm := mem_fixedMap hlt hr
    have hv : r.visibleWhileBusy = true := (fixedMap_visible hm).2 (by omega)
    have hn : r.rights ≠ .writeOnly := by
      rw [(fixedMap_rights hm).2 (by omega) (by omega)]
      exact nofun
    obtain ⟨w, hw⟩ := readReg_visible s hv hn
    exact ⟨w, by rw [memRead_eq h4 hr hn (.inr hv) hw]⟩

/-- Settles O39: an access that reaches a register is well formed, lies in a range of the map and has the register's leave
(`reach_eq_some`, `regAt_cases`). -/
theorem illFormedUnmappedOrWrongWayAccessIsRefused : Obligations.IllFormedUnmappedOrWrongWayAccessIsRefused := by
  refine fun addr size v s => ⟨fun ha => access_unreached fun r refusing h => ?_,
    fun ha => access_unreached fun r refusing h => ?_, fun ha => memRead_unreached fun r h => ?_,
    fun ha => memWrite_unreached fun r h => ?_⟩
  all_goals obtain ⟨hw, hr, hn, -⟩ := reach_eq_some h
  · omega
  · obtain ⟨hlt, -⟩ | ⟨hlt, hle, -⟩ | ⟨hlt, hle, -⟩ | ⟨hlt, hle, -⟩ := regAt_cases hr <;> omega
  · exact hn ((fixedMap_rights (mem_fixedMap (by omega) hr)).1 ha)
  · obtain ⟨hlt, hm⟩ | ⟨hlt, hle, -⟩ | ⟨-, -, c, k, rfl⟩ | ⟨-, -, n, m, rfl⟩ := regAt_cases hr
    · exact hn ((fixedMap_rights hm).2 (by omega) (by omega))
    · omega
    · exact hn (slotReg_window c k).1
    · exact hn rfl

/-- Settles O43: a read leaves the state or its register's side effect, and only `OUT_DATA` has one. -/
theorem onlyOutDataReadsHaveEffects : Obligations.OnlyOutDataReadsHaveEffects := by
  intro addr size s ha
  obtain hm | ⟨r, w, h, hm⟩ := memRead_answers addr size s <;> rw [hm]
  refine readEffect_eq_self s ?_
  rintro rfl
  obtain ⟨-, hr, -, -⟩ := reach_eq_some h
  obtain ⟨-, hm⟩ | ⟨-, -, i, hi⟩ | ⟨-, -, c, k, hk⟩ | ⟨-, -, n, m, hn⟩ := regAt_cases hr
  · exact ha (BitVec.eq_of_toNat_eq (fixedMap_outData hm))
  · cases hi
  · exact (slotReg_window c k).2.2 hk.symm
  · cases hn

end Refusal

end Sys2Proof.Machine
end

section
/-! SUPPORT. A command from its word to its end (spec/30_encoding.md R101 to R114): the decoder undoes the encoder and no
more, the register `CMD` accepts a word or not, the engine takes a stream command's items one by one up to its `eos`, and
the host drains what the command left. -/

namespace Sys2Proof.Machine

section Codec

variable {w : Word} {i : Instr}

theorem opcodeMap_eq_some {op : Nat} (h : opcodeMap op = some i) : op = (encode i).toNat := by
  unfold opcodeMap at h
  split at h <;> cases h <;> rfl

/-- A word whose field `ZERO` is 0 is its field `OP` (R100). -/
theorem toNat_of_zeroField (h : zeroField w = 0#24) : w.toNat = (opField w).toNat := by
  have hz := congrArg BitVec.toNat h
  simp only [zeroField, opField, BitVec.extractLsb'_toNat, Nat.shiftRight_eq_div_pow, BitVec.toNat_ofNat] at hz ⊢
  omega

theorem eq_encode_of_decode (h : decode w = .ok i) : w = encode i := by
  unfold decode at h
  split at h
  · next hz =>
    split at h
    · next hop =>
      cases h
      exact BitVec.eq_of_toNat_eq ((toNat_of_zeroField hz).trans (opcodeMap_eq_some hop))
    · cases h
  · cases h

/-- Settles O52: the two directions are `eq_encode_of_decode` and `decode_encode`. -/
theorem decodeIsInverseOfEncode : Obligations.DecodeIsInverseOfEncode :=
  fun _ i => ⟨eq_encode_of_decode, fun h => h ▸ decode_encode i⟩

/-- Settles O51: each of the words is the encoding of its command. -/
theorem tableWordsDecode : Obligations.TableWordsDecode :=
  ⟨decode_encode .nop, decode_encode .srst, decode_encode .analyze, decode_encode .build, decode_encode .recon,
    decode_encode .hiload, decode_encode .decompress⟩

/-- A word that is none of the fifteen is rejected (R104). -/
theorem decode_illegal (h : ∀ i, w ≠ encode i) : ∃ e, decode w = .error e := by
  cases hd : decode w with
  | ok i => exact absurd (eq_encode_of_decode hd) (h i)
  | error e => exact ⟨e, rfl⟩

end Codec

section Acceptance

variable {w : Word} {s : State}

/-- A write to `CMD` passes steps 1 to 4 of R64 in every state. -/
theorem memWrite_cmd (w : Word) (s : State) : memWrite 0x00000#20 4 w s = writeCmd w s :=
  memWrite_eq (r := .cmd) rfl rfl (by decide) (.inr rfl)

theorem writeCmd_srst (s : State) : writeCmd 0x00000002#32 s = (.ok, resetEngine s) := if_pos rfl

theorem writeCmd_busy (hw : w ≠ 0x00000002#32) (hb : s.busy = true) : writeCmd w s = (.busErr, s) := by
  rw [writeCmd, if_neg hw, if_pos hb]

theorem writeCmd_faulted (hw : w ≠ 0x00000002#32) (hf : s.err ≠ 0#8) (hc : w ≠ 0x00000001#32) :
    writeCmd w s = (.busErr, s) := by
  simp [writeCmd, hw, State.faulted, hf, hc]

theorem writeCmd_accepts (hw : w ≠ 0x00000002#32) (hb : s.busy = false) (hf : s.err = 0#8 ∨ w = 0x00000001#32) :
    writeCmd w s = (.ok, loadCommand w s) := by
  obtain hf | rfl := hf
  · simp [writeCmd, hw, hb, State.faulted, hf]
  · simp [writeCmd, hb]

/-- Settles O41: a write to `CMD` is `writeCmd` (`memWrite_cmd`), which has a lemma for each case of R103. -/
theorem commandAcceptance : Obligations.CommandAcceptance := by
  intro s w
  rw [memWrite_cmd]
  refine ⟨?_, writeCmd_busy, fun hw _ => writeCmd_faulted hw, writeCmd_accepts⟩
  rintro rfl
  rw [writeCmd_srst]
  exact ⟨rfl, rfl⟩

/-- Settles O36: an illegal word is not that of `SRST`, so it is accepted, and the decoder rejects it. -/
theorem illegalWordFaults : Obligations.IllegalWordFaults := by
  refine fun s w hw => ⟨fun hb he => ?_, ?_⟩
  · rw [memWrite_cmd]
    exact writeCmd_accepts (hw .srst) hb (.inl he)
  · obtain ⟨e, hd⟩ := decode_illegal hw
    exact engineStep_illegal (s := loadCommand w s) rfl hd

end Acceptance

section Drain

variable {s : State} {rest : List HostOp}

/-- An idle engine with no turn scheduled leaves the event to the host (R62, R352). -/
theorem step_idle (hb : s.busy = false) (hs : s.sched = []) : step s = .next (hostStep s) := by
  simp [step, hs, State.engineEnabled, hb]

/-- A byte waiting is answered, with bit 31 set, and `drain` stays the next line (R37, R106). -/
theorem hostStep_drain_byte {b : Byte} {q : List Byte} (hh : s.host = .drain :: rest) (hq : s.outq = b :: q) :
    hostStep s = { s with outq := q, resps := s.resps ++ [.data (0x80000000#32 ||| b.setWidth 32)] } := by
  obtain ⟨-, -, -, -, hpop, -⟩ := streamRegistersQueueAndPop s 0#32
  have hvalid : (0x80000000#32 ||| b.setWidth 32).getLsbD 31 = true := by simp
  simp only [hostStep, hh, hpop b q hq, repeatsOn, hvalid, if_true, deliver]

/-- With no byte waiting the answer is zero and the line is done (R37, R106). -/
theorem hostStep_drain_empty (hh : s.host = .drain :: rest) (hq : s.outq = []) :
    hostStep s = { s with host := rest, resps := s.resps ++ [.data 0#32] } := by
  obtain ⟨-, -, -, -, -, hempty⟩ := streamRegistersQueueAndPop s 0#32
  simp [hostStep, hh, hempty hq, repeatsOn, deliver]

/-- Settles O49, by induction on the bytes waiting. -/
theorem drainReadsEveryByte : Obligations.DrainReadsEveryByte := by
  intro (s : State) rest hb hs hh
  generalize hq : s.outq = q
  induction q generalizing s with
  | nil =>
    rw [List.length_nil, run_succ (step_idle hb hs), hostStep_drain_empty hh hq, run_zero, List.map_nil,
      List.append_nil, ← hq]
  | cons b q ih =>
    rw [List.length_cons, run_succ (step_idle hb hs), hostStep_drain_byte hh hq]
    refine (ih { s with outq := q, resps := _ } hb hs hh rfl).trans ?_
    simp

end Drain

section Completion

variable {i : Instr} {s t u : State}

/-- The rules of a stream command leave `INQ` and `PHASE`: R62 takes the item before the rule and sets `PHASE` after it. -/
theorem Touches.stream (h : Touches i s u) (hi : i.isStream = true) : u.inq = s.inq ∧ u.phase = s.phase := by
  cases i
  case analyze => obtain ⟨_, _, _, rfl⟩ := h; exact ⟨rfl, rfl⟩
  case hiload => obtain ⟨_, _, _, _, _, _, -, rfl⟩ := h; exact ⟨rfl, rfl⟩
  case compress => obtain ⟨_, _, _, _, _, _, _, rfl⟩ := h; exact ⟨rfl, rfl⟩
  case decompress => obtain ⟨_, _, _, _, rfl⟩ := h; exact ⟨rfl, rfl⟩
  all_goals cases hi

/-- No command schedules an event (log entry 1). -/
theorem exec_sched (h : exec i s = .next t) : t.sched = s.sched := by
  obtain ⟨-, -, -, -, -, -, -, -, -, -, -, -, -, -, -, -, -, -, -, -, -, -, hsched, -⟩ := onlyTheNamedCommandsWrite i s t h
  exact hsched

/-- The step of a stream command is `streamStep` of rules that keep to the command's frame (R62). -/
theorem exec_stream (hi : i.isStream = true) : ∃ startRule byteRule endRule,
    (∀ s, exec i s = streamStep startRule byteRule endRule s) ∧
    (∀ s, (startRule s).Ensures (fun _ => Touches i s) (Touches i s)) ∧
    ∀ b s, (byteRule b s).Ensures (fun _ => Touches i s) (Touches i s) := by
  cases i
  case analyze =>
    exact ⟨analyzeStart, analyzeByte, analyzeEnd, fun _ => rfl, fun _ => ⟨_, _, _, rfl⟩, fun b s => analyzeByte_touches s b⟩
  case hiload =>
    exact ⟨hiloadStart, hiloadByte, hiloadEnd, fun _ => rfl, fun _ => ⟨_, false, _, _, _, _, nofun, rfl⟩,
      fun b s => hiloadByte_touches s b⟩
  case compress =>
    exact ⟨compressStart, compressByte, compressEnd, fun _ => rfl, compressStart_touches,
      fun b s => compressByte_touches s b⟩
  case decompress =>
    exact ⟨decompressStart, decompressByte, decompressEnd, fun _ => rfl, decompressStart_touches,
      fun b s => decompressByte_touches s b⟩
  all_goals cases hi

/-- A step that leaves a command in progress: its start, or a byte at the head of `INQ` taken (R62). -/
def Advances (s t : State) : Prop :=
  t.phase = .run ∧ ((s.phase = .start ∧ t.inq = s.inq) ∨ (s.phase = .run ∧ ∃ b, s.inq = .byte b :: t.inq))

theorem exec_advances (hq : s.inq ≠ []) (h : exec i s = .next t) (hb : t.busy = true) : Advances s t := by
  have hi : i.isStream = true := by
    by_contra hi
    rw [exec_whole_busy (Bool.not_eq_true _ ▸ hi) h] at hb
    cases hb
  obtain ⟨startRule, byteRule, endRule, hexec, hstart, hbyte⟩ := exec_stream hi
  rw [hexec] at h
  obtain ⟨hp, u, hu, rfl⟩ | ⟨-, hnil, -⟩ | ⟨b, q, hp, hcons, hu⟩ | ⟨q, u, -, -, -, rfl⟩ | ⟨r, e, w, u, -, -, rfl⟩ :=
    streamStep_cases h
  · obtain ⟨hinq, -⟩ := ((hstart s).of_ok hu).stream hi
    exact ⟨rfl, .inl ⟨hp, hinq⟩⟩
  · exact absurd hnil hq
  · obtain ⟨hinq, hphase⟩ := ((hbyte b _).of_ok hu).stream hi
    exact ⟨hphase.trans hp, .inr ⟨hp, b, by rw [hinq, hcons]⟩⟩
  · cases hb
  · cases hb

/-- The engine steps a stream command still takes at most: one for each item and one for its start (R346). -/
def stepsLeft (s : State) : Nat := s.inq.length + if s.phase = .start then 1 else 0

theorem stepsLeft_le (s : State) : stepsLeft s ≤ s.inq.length + 1 := by
  unfold stepsLeft
  split <;> omega

theorem Advances.stepsLeft_eq (h : Advances s t) : stepsLeft s = stepsLeft t + 1 := by
  obtain ⟨ht, ⟨hs, hq⟩ | ⟨hs, b, hq⟩⟩ := h <;> simp [stepsLeft, ht, hs, hq]

/-- A step that takes a byte leaves an `eos` in `INQ`. -/
theorem Advances.eos_mem (h : Advances s t) (he : .eos ∈ s.inq) : .eos ∈ t.inq := by
  obtain ⟨-, ⟨-, hq⟩ | ⟨-, b, hq⟩⟩ := h <;> simpa [hq] using he

/-- With a command in progress, no turn scheduled and an item to take, the event is the engine's: it ends the command or
advances it (R62, R352). -/
theorem step_ends_or_advances (hb : s.busy = true) (hs : s.sched = []) (hq : s.inq ≠ []) (h : step s = .next t) :
    t.busy = false ∨ (t.busy = true ∧ t.sched = [] ∧ Advances s t) := by
  have hen : s.engineEnabled = true := by simp [State.engineEnabled, hb, hq]
  have h : engineStep s = .next t := by simpa [step, hs, hen] using h
  obtain ⟨hidle, -⟩ | ⟨i, -, -, h⟩ | ⟨w, -, -, rfl⟩ := engineStep_cases h
  · rw [hen] at hidle
    cases hidle
  · cases ht : t.busy with
    | false => exact .inl rfl
    | true => exact .inr ⟨rfl, (exec_sched h).trans hs, exec_advances hq h ht⟩
  · exact .inl rfl

/-- An `eos` in `INQ` ends the command in progress within its steps left, by induction on their number. -/
theorem busy_ends (k : Nat) (hs : EngineInv s) (hb : s.busy = true) (hsched : s.sched = []) (he : .eos ∈ s.inq)
    (hk : stepsLeft s ≤ k) : ∃ n t, n ≤ k ∧ Sys2Proof.core.run n s = .next t ∧ t.busy = false := by
  induction k generalizing s with
  | zero =>
    have hlen := List.length_pos_of_mem he
    simp only [stepsLeft] at hk
    omega
  | succ k ih =>
    obtain ⟨u, hu⟩ := step_has_next hs
    obtain hidle | ⟨hbusy, hsched', hadv⟩ := step_ends_or_advances hb hsched (List.ne_nil_of_mem he) hu
    · exact ⟨1, u, by omega, run_succ hu, hidle⟩
    · have hleft := hadv.stepsLeft_eq
      obtain ⟨n, t, hn, hrun, ht⟩ :=
        ih (everyEventKeepsTheInvariant s u hs hu) hbusy hsched' (hadv.eos_mem he) (by omega)
      exact ⟨n + 1, t, by omega, (run_succ hu).trans hrun, ht⟩

/-- Settles O55: `stepsLeft` bounds the run (`busy_ends`). -/
theorem busyEndsOnceEosIsQueued : Obligations.BusyEndsOnceEosIsQueued :=
  fun s hs hb hsched he => busy_ends _ hs hb hsched he (stepsLeft_le s)

end Completion

end Sys2Proof.Machine
end

section
/-! SUPPORT. The frequency analyzer (spec/40_frequency.md): an equation for each way a step of `FCLR` and `ANALYZE` ends
(R131, R132), what a run of byte items leaves in the counters, and the sum of the counters (R133). -/

namespace Sys2Proof.Machine

section Rules

variable {s t : State} {b : Byte} {c : Symbol} {q : List Item}

theorem symbolOf_eq_some : symbolOf b = some c ↔ b.toNat = c.val := by
  simp only [symbolOf, Option.dite_none_right_eq_some, Option.some.injEq, Fin.ext_iff]
  exact ⟨fun ⟨_, h⟩ => h, fun h => ⟨h ▸ c.isLt, h⟩⟩

/-- The word `ERRINFO` takes when the counter of `c` is full (R132, R301). -/
theorem zeroExtend_symByte (c : Symbol) : (symByte c).zeroExtend 32 = BitVec.ofNat 32 c.val := by
  apply BitVec.eq_of_toNat_eq
  simp [symByte]
  omega

theorem analyzeByte_symbol (hb : symbolOf b = some c) (hf : s.freqAt c ≠ BitVec.allOnes 32) :
    analyzeByte b s = .ok () (s.setFreq c (s.freqAt c + 1#32)) := by
  simp only [analyzeByte, hb, if_neg hf]

theorem analyzeByte_symbol_full (hb : symbolOf b = some c) (hf : s.freqAt c = BitVec.allOnes 32) :
    analyzeByte b s = .raised .freqOvf (b.zeroExtend 32) s := by
  simp only [analyzeByte, hb, if_pos hf]

theorem analyzeByte_nonAscii (hb : symbolOf b = none) (hn : s.nonascii ≠ BitVec.allOnes 64) :
    analyzeByte b s = .ok () s.noteNonAscii := by
  simp only [analyzeByte, hb, if_neg hn]

theorem analyzeByte_nonAscii_full (hb : symbolOf b = none) (hn : s.nonascii = BitVec.allOnes 64) :
    analyzeByte b s = .raised .countOvf 0#32 s := by
  simp only [analyzeByte, hb, if_pos hn]

theorem exec_fclr (s : State) : exec .fclr s = .next { s with freq := zeroFreq, busy := false } := rfl

theorem exec_analyze_start (hp : s.phase = .start) :
    exec .analyze s = .next { s with freq := zeroFreq, nonascii := 0#64, warn := false, phase := .run } :=
  streamStep_start (startRule := analyzeStart) hp

theorem exec_analyze_counts (hp : s.phase = .run) (hq : s.inq = .byte b :: q)
    (h : analyzeByte b { s with inq := q } = .ok () t) : exec .analyze s = .next t :=
  (streamStep_byte hp hq).trans (congrArg (stepEnd id) h)

theorem exec_analyze_faults {e : ErrCode} {w : Word} (hp : s.phase = .run) (hq : s.inq = .byte b :: q)
    (h : analyzeByte b { s with inq := q } = .raised e w t) : exec .analyze s = .next (takeFault e w t) :=
  (streamStep_byte hp hq).trans (congrArg (stepEnd id) h)

theorem exec_analyze_eos (hp : s.phase = .run) (hq : s.inq = .eos :: q) :
    exec .analyze s = .next { s with inq := q, busy := false } :=
  streamStep_eos (endRule := analyzeEnd) hp hq

/-- Settles O5: the step is `exec_fclr`, and every entry of `zeroFreq` is 0. -/
theorem fclrClearsTheCounters : Obligations.FclrClearsTheCounters :=
  fun s => ⟨_, exec_fclr s, zeroFreq_getElem, rfl⟩

/-- Settles O6: the step is `exec_analyze_start`, and every entry of `zeroFreq` is 0. -/
theorem analyzeStartsFromZero : Obligations.AnalyzeStartsFromZero :=
  fun _ hp => ⟨_, exec_analyze_start hp, zeroFreq_getElem, rfl⟩

/-- Settles O7: `analyzeByte` has an equation for each of the four cases of a byte, and `exec_analyze_eos` is the fifth
clause. -/
theorem analyzeTakesOneItem : Obligations.AnalyzeTakesOneItem := by
  refine fun s q hp => ⟨fun c hq hf => ?_, fun c hq hf => ?_, fun b hb hq hn => ?_, fun b hb hq hn => ?_,
    exec_analyze_eos hp⟩
  · refine ⟨_, exec_analyze_counts hp hq (analyzeByte_symbol (symbolOf_symByte c) hf), ?_, fun d hd => ?_, rfl⟩
    · rw [freqAt_setFreq, if_pos rfl]
      rfl
    · rw [freqAt_setFreq, if_neg hd.symm]
      rfl
  · rw [← zeroExtend_symByte c]
    exact exec_analyze_faults hp hq (analyzeByte_symbol_full (symbolOf_symByte c) hf)
  · exact exec_analyze_counts hp hq (analyzeByte_nonAscii (symbolOf_eq_none.2 hb) hn)
  · exact exec_analyze_faults hp hq (analyzeByte_nonAscii_full (symbolOf_eq_none.2 hb) hn)

end Rules

section Counts

variable {s t u : State} {bs xs ys : List Byte} {p q : List Item}

/-- How many of the bytes are the symbol `c`. -/
def occurrences (c : Symbol) (bs : List Byte) : Nat := bs.countP fun b => b.toNat == c.val

/-- How many of the bytes are no symbol. -/
def nonSymbols (bs : List Byte) : Nat := bs.countP fun b => 128 ≤ b.toNat

theorem occurrences_append (c : Symbol) (xs ys : List Byte) :
    occurrences c (xs ++ ys) = occurrences c xs + occurrences c ys := List.countP_append

theorem nonSymbols_append (xs ys : List Byte) : nonSymbols (xs ++ ys) = nonSymbols xs + nonSymbols ys :=
  List.countP_append

theorem occurrences_singleton (c : Symbol) (b : Byte) : occurrences c [b] = if symbolOf b = some c then 1 else 0 := by
  simp only [occurrences, List.countP_singleton, symbolOf_eq_some, beq_iff_eq]

theorem nonSymbols_singleton (b : Byte) : nonSymbols [b] = if symbolOf b = none then 1 else 0 := by
  simp only [nonSymbols, List.countP_singleton, symbolOf_eq_none, decide_eq_true_eq]

/-- The symbols among the bytes, in order. -/
def symbolsAmong (bs : List Byte) : List Symbol := bs.filterMap symbolOf

theorem count_symbolsAmong (c : Symbol) (bs : List Byte) : (symbolsAmong bs).count c = occurrences c bs := by
  rw [symbolsAmong, List.count_filterMap]
  exact List.countP_congr fun b _ => by simp [symbolOf_eq_some]

/-- A byte is a symbol or it is none (R6). -/
theorem length_symbolsAmong (bs : List Byte) : (symbolsAmong bs).length + nonSymbols bs = bs.length := by
  induction bs with
  | nil => rfl
  | cons b bs ih =>
    have hn := nonSymbols_append [b] bs
    rw [nonSymbols_singleton, List.singleton_append] at hn
    rw [hn, List.length_cons, ← ih]
    cases hb : symbolOf b with
    | none => simp [symbolsAmong, hb]; omega
    | some c => simp [symbolsAmong, hb]; omega

/-- The occurrences of the 128 symbols sum to the bytes that are a symbol (R133). -/
theorem sum_occurrences (bs : List Byte) : (symbols.map fun c => occurrences c bs).sum = bs.length - nonSymbols bs := by
  calc (symbols.map fun c => occurrences c bs).sum
      = ∑ c : Symbol, (symbolsAmong bs : Multiset Symbol).count c := by
        simp only [Fin.sum_univ_def, symbols, Multiset.coe_count, count_symbolsAmong]
    _ = (symbolsAmong bs).length := Multiset.sum_count_eq_card fun c _ => Finset.mem_univ c
    _ = bs.length - nonSymbols bs := by rw [← length_symbolsAmong, Nat.add_sub_cancel]

/-- The bytes `bs` take no counter past its width from its value in `s` (R133). -/
structure Room (bs : List Byte) (s : State) : Prop where
  freq : ∀ c, (s.freqAt c).toNat + occurrences c bs < 2 ^ 32
  nonascii : s.nonascii.toNat + nonSymbols bs < 2 ^ 64

/-- `t` is `s` with the bytes `bs` counted and `q` left in `INQ`. -/
structure Counted (bs : List Byte) (q : List Item) (s t : State) : Prop where
  frame : Touches .analyze { s with inq := q } t
  freq : ∀ c, (t.freqAt c).toNat = (s.freqAt c).toNat + occurrences c bs
  nonascii : t.nonascii.toNat = s.nonascii.toNat + nonSymbols bs
  warn : t.warn = (s.warn || bs.any fun b => 128 ≤ b.toNat)

theorem Counted.nil (hq : s.inq = q) : Counted [] q s s where
  frame := ⟨_, _, _, by rw [← hq]⟩
  freq _ := rfl
  nonascii := rfl
  warn := (Bool.or_false _).symm

theorem Counted.append (h : Counted xs p s u) (h' : Counted ys q u t) : Counted (xs ++ ys) q s t where
  frame := by
    obtain ⟨_, _, _, rfl⟩ := h.frame
    obtain ⟨_, _, _, rfl⟩ := h'.frame
    exact ⟨_, _, _, rfl⟩
  freq c := by rw [h'.freq, h.freq, occurrences_append, Nat.add_assoc]
  nonascii := by rw [h'.nonascii, h.nonascii, nonSymbols_append, Nat.add_assoc]
  warn := by rw [h'.warn, h.warn, List.any_append, Bool.or_assoc]

theorem Room.front (h : Room (xs ++ ys) s) : Room xs s where
  freq c := by have := h.freq c; rw [occurrences_append] at this; omega
  nonascii := by have := h.nonascii; rw [nonSymbols_append] at this; omega

/-- What was counted leaves room for the rest. -/
theorem Room.rest (h : Room (xs ++ ys) s) (hc : Counted xs p s u) : Room ys u where
  freq c := by
    have := h.freq c
    rwa [occurrences_append, ← Nat.add_assoc, ← hc.freq] at this
  nonascii := by
    have := h.nonascii
    rwa [nonSymbols_append, ← Nat.add_assoc, ← hc.nonascii] at this

/-- A value below the greatest of its width counts one more without a wrap. -/
theorem add_one_of_lt {w : Nat} {x : BitVec w} (h : x.toNat + 1 < 2 ^ w) :
    x ≠ BitVec.allOnes w ∧ (x + 1#w).toNat = x.toNat + 1 := by
  have hone : 1 % 2 ^ w = 1 := Nat.mod_eq_of_lt (by omega)
  refine ⟨?_, ?_⟩
  · rintro rfl
    rw [BitVec.toNat_allOnes] at h
    omega
  · rw [BitVec.toNat_add, BitVec.toNat_ofNat, hone, Nat.mod_eq_of_lt h]

/-- The byte rule counts its byte, where there is room for it (R132). -/
theorem analyzeByte_counts {b : Byte} (hr : Room [b] s) :
    ∃ t, analyzeByte b { s with inq := q } = .ok () t ∧ Counted [b] q s t := by
  cases hb : symbolOf b with
  | some c =>
    have hroom := hr.freq c
    rw [occurrences_singleton, if_pos hb] at hroom
    obtain ⟨hne, hsucc⟩ := add_one_of_lt hroom
    refine ⟨_, analyzeByte_symbol hb hne, ⟨_, _, _, rfl⟩, fun d => ?_, ?_, ?_⟩
    · rw [freqAt_setFreq, occurrences_singleton, hb]
      by_cases hd : c = d
      · subst hd
        rwa [if_pos rfl, if_pos rfl]
      · rw [if_neg hd, if_neg (by simpa using hd)]
        rfl
    · rw [nonSymbols_singleton, if_neg (by simp [hb])]
      rfl
    · have hlt : ¬ 128 ≤ b.toNat := fun hle => by simp [symbolOf_eq_none.2 hle] at hb
      simp [hlt]
  | none =>
    have hroom := hr.nonascii
    rw [nonSymbols_singleton, if_pos hb] at hroom
    obtain ⟨hne, hsucc⟩ := add_one_of_lt hroom
    refine ⟨_, analyzeByte_nonAscii hb hne, ⟨_, _, _, rfl⟩, fun d => ?_, ?_, ?_⟩
    · rw [occurrences_singleton, if_neg (by simp [hb])]
      rfl
    · rwa [nonSymbols_singleton, if_pos hb]
    · simp [symbolOf_eq_none.1 hb]

end Counts

section Stream

variable {s t : State} {bs : List Byte} {q : List Item}

/-- With no turn scheduled and its step enabled, the event is the step of the command in `CMDR`. -/
theorem step_command {i : Instr} (hs : s.sched = []) (he : s.engineEnabled = true) (hd : decode s.cmdr = .ok i) :
    step s = exec i s :=
  have ⟨_, hidle, _⟩ := stepRunsTheDecodedCommand
  hidle s i hs he hd

/-- `ANALYZE` is between its steps and no turn is scheduled. -/
structure Analyzing (s : State) : Prop where
  busy : s.busy = true
  phase : s.phase = .run
  command : decode s.cmdr = .ok .analyze
  sched : s.sched = []

theorem Analyzing.step_eq (h : Analyzing s) (hq : s.inq ≠ []) : step s = exec .analyze s :=
  step_command h.sched (by simp [State.engineEnabled, h.busy, hq]) h.command

theorem Counted.analyzing (h : Counted bs q s t) (hs : Analyzing s) : Analyzing t ∧ t.inq = q := by
  obtain ⟨_, _, _, rfl⟩ := h.frame
  exact ⟨⟨hs.busy, hs.phase, hs.command, hs.sched⟩, rfl⟩

/-- One event counts one byte. -/
theorem Analyzing.step_counts {b : Byte} (h : Analyzing s) (hq : s.inq = .byte b :: q) (hr : Room [b] s) :
    ∃ t, step s = .next t ∧ Counted [b] q s t := by
  obtain ⟨t, ht, hc⟩ := analyzeByte_counts hr
  exact ⟨t, (h.step_eq (by simp [hq])).trans (exec_analyze_counts h.phase hq ht), hc⟩

/-- As many events as there are bytes count them, by induction on the bytes. -/
theorem Analyzing.run_counts (h : Analyzing s) (hq : s.inq = bs.map Item.byte ++ q) (hr : Room bs s) :
    ∃ t, Sys2Proof.core.run bs.length s = .next t ∧ Counted bs q s t := by
  induction bs generalizing s with
  | nil => exact ⟨s, rfl, .nil hq⟩
  | cons b bs ih =>
    obtain ⟨u, hu, hb⟩ := h.step_counts hq (Room.front (xs := [b]) hr)
    obtain ⟨hrun, hinq⟩ := hb.analyzing h
    obtain ⟨t, ht, hbs⟩ := ih hrun hinq (hr.rest hb)
    exact ⟨t, (run_succ hu).trans ht, hb.append hbs⟩

/-- Settles O8: the start rule leaves zero counters, the bytes are counted (`Analyzing.run_counts`), `eos` ends the command,
and the counters sum by `sum_occurrences`. -/
theorem analyzeCountsTheStream : Obligations.AnalyzeCountsTheStream := by
  rintro s bs rest ⟨hbusy, hphase, hcmdr, hsched⟩ hq hfreq hnon
  have hd : decode s.cmdr = .ok .analyze := hcmdr ▸ decode_encode .analyze
  have hstart := (step_command hsched (by simp [State.engineEnabled, hbusy, hphase]) hd).trans (exec_analyze_start hphase)
  have hrun : Analyzing { s with freq := zeroFreq, nonascii := 0#64, warn := false, phase := .run } :=
    ⟨hbusy, rfl, hd, hsched⟩
  have hzero : ∀ c : Symbol, (zeroFreq[c.val]).toNat = 0 := fun c => by simp
  obtain ⟨u, hu, hcount⟩ := hrun.run_counts hq
    ⟨fun c => by rw [State.freqAt, hzero, Nat.zero_add]; exact hfreq c, (Nat.zero_add _).symm ▸ hnon⟩
  obtain ⟨hrun', hinq⟩ := hcount.analyzing hrun
  have hend := (hrun'.step_eq (by simp [hinq])).trans (exec_analyze_eos hrun'.phase hinq)
  have hf : ∀ c, (u.freqAt c).toNat = occurrences c bs := fun c => by
    rw [hcount.freq, State.freqAt, hzero, Nat.zero_add]
  have hn : u.nonascii.toNat = nonSymbols bs := hcount.nonascii.trans (Nat.zero_add _)
  refine ⟨{ u with inq := rest, busy := false }, ?_, hf, hn, ?_, hcount.warn, ?_⟩
  · rw [run_succ hstart, run_add hu]
    exact run_succ hend
  · rw [hn, ← sum_occurrences]
    exact congrArg List.sum (List.map_congr_left fun c _ => hf c)
  · obtain ⟨_, _, _, rfl⟩ := hcount.frame
    rfl

end Stream

end Sys2Proof.Machine
end

section
/-! SUPPORT. The scheduler's two laws (spec/41_scheduler.md R146). The order of R31 puts the least key in front; and a sift
up needs only that the key it carries is at no other position, so an insert keeps the order of every array that does not
hold the new key, also where old keys are equal. -/

namespace Sys2Proof.Machine

section Least

variable {h rest : List Entry} {e : Entry}

/-- The front of an array in order has the least key, by the path from a position up to it. -/
theorem HeapOrdered.front_lt (ho : HeapOrdered h) (i : Nat) (hi : i < h.length) (h0 : 0 < i) :
    keyAt h 0 < keyAt h i := by
  induction i using Nat.strong_induction_on with
  | h i ih =>
    have hpar := ho i hi h0
    obtain hroot | hinner := Nat.eq_zero_or_pos ((i - 1) / 2)
    · rwa [hroot] at hpar
    · exact (ih _ (by omega) (by omega) hinner).trans hpar

theorem HeapOrdered.head_lt (ho : HeapOrdered (e :: rest)) : ∀ d ∈ rest, e.key < d.key := by
  intro d hd
  obtain ⟨i, hi, rfl⟩ := List.mem_iff_getElem.1 hd
  simpa [keyAt, hi] using ho.front_lt (i + 1) (by simpa using hi) (by omega)

end Least

section Insert

variable {h : List Entry} {e : Entry} {i : Nat}

/-- The key at `i` is at no other position. -/
def KeyApart (h : List Entry) (i : Nat) : Prop := ∀ j, j < h.length → j ≠ i → keyAt h j ≠ keyAt h i

/-- An exchange takes the key along. -/
theorem KeyApart.exchange {p : Nat} (ha : KeyApart h i) (hi : i < h.length) (hp : p < h.length) (hne : i ≠ p) :
    KeyApart (exchange h i p hi hp) p := by
  intro j hj hjp
  rw [exchange_length] at hj
  rw [keyAt_exchange, keyAt_exchange, if_neg hjp, if_pos rfl]
  split_ifs with hji
  · exact ha p hp hne.symm
  · exact ha j hj hji

/-- `siftUp_ordered` where only the key on its way up has to differ from the others. -/
theorem siftUp_ordered_of_keyApart {fuel : Nat} (hf : i ≤ fuel) (hi : i < h.length) (ha : KeyApart h i)
    (ho : OrderedButUp h i) : HeapOrdered (siftUp fuel i h) := by
  induction fuel generalizing i h with
  | zero => exact fun j hj hj0 => ho.others j hj hj0 (by omega)
  | succ fuel ih =>
    obtain ⟨hstop, he⟩ | ⟨h0, hk, he⟩ := siftUp_succ_cases fuel i h hi <;> rw [he]
    · intro j hj hj0
      obtain rfl | hji := eq_or_ne j i
      · exact lt_of_le_of_ne (hstop.resolve_left (by omega)) (ha _ (by omega) (by omega))
      · exact ho.others j hj hj0 hji
    · exact ih (by omega) (by simp; omega) (ha.exchange hi _ (by omega)) (ho.exchange hi h0 hk)

theorem keyAt_append_of_lt (hi : i < h.length) : keyAt (h ++ [e]) i = keyAt h i := by
  simp [keyAt, List.getElem?_append_left hi]

theorem keyAt_append_length : keyAt (h ++ [e]) h.length = e.key := by simp [keyAt]

theorem keyApart_append (hnew : ∀ d ∈ h, d.key ≠ e.key) : KeyApart (h ++ [e]) h.length := by
  intro j hj hne
  have hj' : j < h.length := by simp at hj; omega
  rw [keyAt_append_of_lt hj', keyAt_append_length, keyAt_of_lt hj']
  exact hnew _ (List.getElem_mem hj')

/-- An entry put last is out of order with its parent at most. -/
theorem HeapOrdered.append_orderedButUp (ho : HeapOrdered h) : OrderedButUp (h ++ [e]) h.length where
  others j hj hj0 hne := by
    have hj' : j < h.length := by simp at hj; omega
    rw [keyAt_append_of_lt hj', keyAt_append_of_lt (by omega)]
    exact ho j hj' hj0
  across _ j hj hj0 hpar := by
    simp at hj
    omega

theorem heapInsert_ordered_of_key_ne (ho : HeapOrdered h) (hnew : ∀ d ∈ h, d.key ≠ e.key) :
    HeapOrdered (heapInsert e h) :=
  siftUp_ordered_of_keyApart le_rfl (by simp) (keyApart_append hnew) ho.append_orderedButUp

end Insert

section Laws

/-- Settles O9: the order is `heapInsert_ordered_of_key_ne`, the entries held are `heapInsert_perm`. -/
theorem insertKeepsTheHeap : Obligations.InsertKeepsTheHeap := fun e h ho hnew =>
  ⟨heapInsert_ordered_of_key_ne ho hnew, heapInsert_perm e h⟩

/-- Settles O10: the least entry is the front one (`HeapOrdered.head_lt`), and what is left is `heapPop` of the others. -/
theorem removeMinTakesTheLeast : Obligations.RemoveMinTakesTheLeast := by
  constructor
  · intro s e rest hs ho hd
    rw [hs] at ho hd
    have hrest : (rest.map Entry.key).Nodup := (List.nodup_cons.1 hd).2
    exact ⟨by simp [peekMinPriority, hs], ho.head_lt, { s with heap := heapPop rest },
      removeMin_eq_ok.2 ⟨rest, hs, rfl⟩, heapPop_ordered ho hrest, heapPop_perm rest, rfl⟩
  · intro s hs
    exact ⟨by simp [peekMinPriority, hs, Config.prioEmpty], removeMin_eq_raised.2 ⟨hs, rfl, rfl, rfl⟩⟩

end Laws

end Sys2Proof.Machine
end

section
/-! SUPPORT. What the tree builder's commands leave (spec/42_treebuilder.md R161 to R166): the leaves and entries of `HSEED`,
the two entries `HMERGE` takes, and what every merge of a `BUILD` keeps of the tree that grows. -/

namespace Sys2Proof.Machine

section Seeds

/-- A piece of pseudocode that neither raises nor gets stuck ends with a value. -/
theorem Res.Ensures.exists_ok {α : Type} {Q : α → State → Prop} {r : Res α} (h : r.Ensures Q Res.NoRaise)
    (hs : r.NotStuck) : ∃ a t, r = .ok a t ∧ Q a t := by
  cases r with
  | ok a t => exact ⟨a, t, rfl, h⟩
  | raised e w t => exact h.elim
  | stuck f => exact absurd rfl (hs f)

/-- The leaf of a symbol (R161). -/
def seedNode (f : Vector Freq 128) (c : Symbol) : Node := ⟨symByte c, none, none, f[c.val].zeroExtend 39⟩

/-- The entry of a symbol's leaf (R161). -/
def seedEntry (f : Vector Freq 128) (c : Symbol) : Entry :=
  ⟨f[c.val].zeroExtend 39, BitVec.ofNat 8 c.val, BitVec.ofNat 14 c.val⟩

theorem symbols_getElem? (c : Symbol) : symbols[c.val]? = some c := by simp [symbols]

/-- `HSEED` from `s` between two leaves: with those of the symbols `xs` still to come, the nodes and the entries are the
128 seeded ones. -/
structure Seeds (s : State) (xs : List Symbol) (t : State) : Prop where
  seeding : Seeding xs t
  toCome : xs = symbols.drop t.nn
  arena : t.arena ++ xs.map (seedNode s.freq) = symbols.map (seedNode s.freq)
  heap : (t.heap ++ xs.map (seedEntry s.freq)).Perm (symbols.map (seedEntry s.freq))
  frame : ∃ h q a, t = { s with heap := h, hseq := q, arena := a, treeValid := false, tableValid := false }

variable {s t : State} {c : Symbol} {xs : List Symbol}

/-- The symbol seeded next has the number of the node allocated for it. -/
theorem Seeds.next_symbol (h : Seeds s (c :: xs) t) : t.nn = c.val ∧ xs = symbols.drop (t.nn + 1) := by
  have hlt : t.nn < 128 := by have := h.seeding.toCome; rw [List.length_cons] at this; omega
  have hdrop := h.toCome
  rw [List.drop_eq_getElem_cons (by simpa [symbols] using hlt)] at hdrop
  obtain ⟨rfl, rfl⟩ := List.cons.inj hdrop
  exact ⟨by simp [symbols], rfl⟩

theorem Seeds.next (h : Seeds s (c :: xs) t) : Seeds s xs (seeded c t) := by
  obtain ⟨hc, hxs⟩ := h.next_symbol
  obtain ⟨hseeding, -, harena, hheap, a, q, n, rfl⟩ := h
  have hseq : q = BitVec.ofNat 8 c.val := by
    apply BitVec.eq_of_toNat_eq
    have : q.toNat = c.val := hseeding.counter.trans hc
    simp
    omega
  refine ⟨hseeding.next, ?_, ?_, ?_, _, _, _, rfl⟩
  · rw [hxs]
    simp [seeded, State.nn]
  · simpa [seeded, seedNode, State.freqAt] using harena
  · have hnew : (⟨(s.freqAt c).zeroExtend 39, q, BitVec.ofNat 14 n.length⟩ : Entry) = seedEntry s.freq c := by
      rw [hseq, show n.length = c.val from hc]
      rfl
    refine .trans ?_ hheap
    exact ((heapInsert_perm _ _).append_right _).trans (hnew ▸ List.perm_middle.symm)

theorem seedLeaf_seeds (c : Symbol) (xs : List Symbol) (t : State) (h : Seeds s (c :: xs) t) :
    (seedLeaf c t).Ensures (fun _ => Seeds s xs) Res.NoRaise := by
  have hc := h.seeding.toCome
  have hh := h.seeding.held
  rw [List.length_cons] at hc
  rw [seedLeaf_eq (show t.nn ≠ 16257 by omega) (show t.hn ≠ 128 by omega)]
  exact h.next

theorem hseedRule_seeds (s : State) : (hseedRule s).Ensures (fun _ => Seeds s []) Res.NoRaise := by
  refine forEach_ensures seedLeaf_seeds symbols _ ⟨?_, rfl, rfl, .refl _, _, _, _, rfl⟩
  refine ⟨QueueInv.nil, by simp [State.nn, symbols], rfl, rfl, by simp [prioSum], rfl, ?_, rfl⟩
  simpa [symbolsHeld, symbols] using List.nodup_finRange 128

/-- From every state `HSEED` ends, with exactly the seeded leaves and entries (R161). -/
theorem hseedRule_ok (s : State) : ∃ t, hseedRule s = .ok () t ∧ Seeds s [] t := by
  obtain ⟨⟨⟩, t, ht, h⟩ := (hseedRule_seeds s).exists_ok (hseedRule_notStuck s)
  exact ⟨t, ht, h⟩

theorem Seeds.arena_eq (h : Seeds s [] t) : t.arena = symbols.map (seedNode s.freq) := by simpa using h.arena

theorem Seeds.heap_perm (h : Seeds s [] t) : t.heap.Perm (symbols.map (seedEntry s.freq)) := by simpa using h.heap

theorem Seeds.nn_eq (h : Seeds s [] t) : t.nn = 128 := h.seeding.toCome

theorem Seeds.leaf (h : Seeds s [] t) (c : Symbol) : t.arena[c.val]? = some (seedNode s.freq c) := by
  rw [h.arena_eq, List.getElem?_map, symbols_getElem?]
  rfl

theorem Seeds.mem_heap (h : Seeds s [] t) {e : Entry} : e ∈ t.heap ↔ ∃ c, e = seedEntry s.freq c := by
  simp [h.heap_perm.mem_iff, symbols, eq_comm]

/-- Settles O11, by the loop's invariant `Seeds`. -/
theorem hseedSeedsEverySymbol : Obligations.HseedSeedsEverySymbol := by
  intro s
  obtain ⟨t, ht, h⟩ := hseedRule_ok s
  have hn := h.nn_eq
  refine ⟨t.setBusy false, wholeStep_ok ht, h.seeding.held.trans hn, ?_, hn, h.leaf, fun _ => h.mem_heap,
    h.seeding.queue.ordered, ?_⟩
  · exact BitVec.eq_of_toNat_eq (h.seeding.counter.trans hn)
  · obtain ⟨_, _, _, rfl⟩ := h.frame
    rfl

end Seeds

section Merges

/-- The entries `e1` and `e2` that the two removals of `HMERGE` take from the array `h`, and the array they leave (R162). -/
def TakesTwo (h : List Entry) (e1 e2 : Entry) (q : List Entry) : Prop :=
  ∃ rest rest', h = e1 :: rest ∧ heapPop rest = e2 :: rest' ∧ q = heapPop rest'

theorem exists_takesTwo {h : List Entry} (h2 : 2 ≤ h.length) : ∃ e1 e2 q, TakesTwo h e1 e2 q := by
  obtain ⟨e1, rest, rfl⟩ := List.exists_cons_of_length_pos (show 0 < h.length by omega)
  have hlen := heapPop_length rest
  rw [List.length_cons] at h2
  obtain ⟨e2, rest', hpop⟩ := List.exists_cons_of_length_pos (show 0 < (heapPop rest).length by omega)
  exact ⟨e1, e2, _, rest, rest', rfl, hpop, rfl⟩

variable {h q : List Entry} {e1 e2 : Entry} {n : Nat} {s : State}

theorem TakesTwo.perm (ht : TakesTwo h e1 e2 q) : h.Perm (e1 :: e2 :: q) := by
  obtain ⟨rest, rest', h1, h2, rfl⟩ := ht
  exact takeTwo_perm h1 h2

theorem TakesTwo.queue (ht : TakesTwo h e1 e2 q) (hq : QueueInv h n) : QueueInv q n := by
  obtain ⟨rest, rest', rfl, h2, rfl⟩ := ht
  exact (h2 ▸ hq.pop).pop

/-- The entry taken first has the least key, the second the least of the others (R146). -/
theorem TakesTwo.least (ht : TakesTwo h e1 e2 q) (hq : QueueInv h n) :
    (∀ e ∈ h, e1.key ≤ e.key) ∧ ∀ e ∈ h, e ≠ e1 → e2.key ≤ e.key := by
  obtain ⟨rest, rest', rfl, h2, rfl⟩ := ht
  have hrest : HeapOrdered (e2 :: rest') := h2 ▸ hq.pop.ordered
  have hmem : ∀ e, e ∈ rest ↔ e = e2 ∨ e ∈ rest' := fun e => by rw [← (heapPop_perm rest).mem_iff, h2, List.mem_cons]
  refine ⟨fun e he => ?_, fun e he hne => ?_⟩
  · obtain rfl | he := List.mem_cons.1 he
    exacts [le_rfl, (hq.ordered.head_lt e he).le]
  · obtain rfl | he := (hmem e).1 ((List.mem_cons.1 he).resolve_left hne)
    exacts [le_rfl, (hrest.head_lt e he).le]

/-- The entries are all different, so those left are the others. -/
theorem TakesTwo.mem_rest (ht : TakesTwo h e1 e2 q) (hq : QueueInv h n) :
    e1 ∈ h ∧ e2 ∈ h ∧ e1 ≠ e2 ∧ ∀ e, e ∈ q ↔ e ∈ h ∧ e ≠ e1 ∧ e ≠ e2 := by
  have hd : (e1 :: e2 :: q).Nodup := ht.perm.nodup_iff.1 hq.seqs.of_map
  simp only [List.nodup_cons, List.mem_cons, not_or] at hd
  obtain ⟨⟨hne, h1⟩, h2, -⟩ := hd
  simp only [ht.perm.mem_iff, List.mem_cons]
  grind

/-- R166: the sum of the two priorities does not leave its width. -/
theorem TakesTwo.prio_add (ht : TakesTwo s.heap e1 e2 q) (hs : SchedInv s) :
    (e1.prio + e2.prio).toNat = e1.prio.toNat + e2.prio.toNat := by
  have hsum := hs.sum
  rw [prioSum_perm ht.perm, prioSum_cons, prioSum_cons] at hsum
  rw [BitVec.toNat_add]
  omega

/-- While entries are held, their number gives that of the nodes. -/
theorem TakesTwo.counts (ht : TakesTwo s.heap e1 e2 q) (hs : SchedInv s) :
    128 ≤ s.nn ∧ s.hn + s.nn = 256 ∧ s.hseq.toNat = s.nn :=
  hs.counts.resolve_left (List.ne_nil_of_mem (ht.mem_rest hs.queue).1)

/-- What a merge does of two entries or more (R162). -/
theorem TakesTwo.hmergeRule_ok (ht : TakesTwo s.heap e1 e2 q) (hs : SchedInv s) :
    hmergeRule s = .ok () (merged s e1 e2 q) := by
  obtain ⟨h128, htotal, -⟩ := ht.counts hs
  obtain ⟨rest, rest', h1, h2, rfl⟩ := ht
  exact hmergeRule_eq h1 h2 (show s.nn ≠ 16257 by omega) (show s.hn ≤ 128 by omega)

theorem TakesTwo.buildInv (ht : TakesTwo s.heap e1 e2 q) (hb : BuildInv s) : BuildInv (merged s e1 e2 q) :=
  ⟨merged_sched hb.sched ht.perm (ht.queue hb.sched.queue), merged_arena hb ht.perm⟩

/-- Settles O12: the two entries of `TakesTwo`, and what `merged` makes of them. -/
theorem hmergeJoinsTheTwoSmallest : Obligations.HmergeJoinsTheTwoSmallest := by
  intro s hs h2
  obtain ⟨e1, e2, q, ht⟩ := exists_takesTwo h2
  obtain ⟨hleast, hnext⟩ := ht.least hs.queue
  obtain ⟨h1, h2, hne, hrest⟩ := ht.mem_rest hs.queue
  refine ⟨e1, e2, (merged s e1 e2 q).setBusy false, wholeStep_ok (ht.hmergeRule_ok hs), h1, h2, hne, hleast, hnext,
    ht.prio_add hs, rfl, fun e => ?_, merged_hn ht.perm, rfl⟩
  rw [← hrest e, or_comm, ← List.mem_cons]
  exact (heapInsert_perm _ _).mem_iff

/-- Settles O13, by `htakeRule_eq`. -/
theorem htakeTakesTheLastTree : Obligations.HtakeTakesTheLastTree := fun _ _ h => wholeStep_ok (htakeRule_eq h)

end Merges

section Steps

variable {s t : State}

theorem Seeds.buildInv (h : Seeds s [] t) : BuildInv t ∧ t.hn = 128 := h.seeding.buildInv

theorem execAll_cons {i : Instr} (is : List Instr) (h : exec i s = .next t) : execAll (i :: is) s = execAll is t := by
  rw [execAll, h]

/-- No rule of the tree builder reads `BUSY`, so the merges and the take of a `BUILD` do what the commands do, each of which
begins with the `BUSY` that the one before it cleared. -/
theorem execAll_merges (k : Nat) (hb : BuildInv s) (hn : s.hn = k + 1) :
    execAll (List.replicate k .hmerge ++ [.htake]) (s.setBusy false) =
      stepEnd (fun t => t.setBusy false) ((repeatTimes hmergeRule k s).andThen fun _ u => htakeRule u) := by
  induction k generalizing s with
  | zero =>
    obtain ⟨e, he⟩ := List.length_eq_one_iff.1 hn
    have hcmd : exec .htake (s.setBusy false) = .next ((taken s e).setBusy false) :=
      (wholeStep_ok (htakeRule_eq (s := s.setBusy false) he)).trans rfl
    exact (execAll_cons [] hcmd).trans (by rw [repeatTimes_zero, Res.andThen_ok, htakeRule_eq he]; rfl)
  | succ k ih =>
    obtain ⟨e1, e2, q, ht⟩ := exists_takesTwo (show 2 ≤ s.heap.length by rw [State.hn] at hn; omega)
    have hs' : SchedInv (s.setBusy false) := hb.sched.of_eq rfl rfl rfl
    have hcmd : exec .hmerge (s.setBusy false) = .next ((merged s e1 e2 q).setBusy false) :=
      (wholeStep_ok (TakesTwo.hmergeRule_ok (s := s.setBusy false) ht hs')).trans rfl
    have hhn := merged_hn ht.perm
    rw [List.replicate_succ, List.cons_append, execAll_cons _ hcmd, ih (ht.buildInv hb) (by omega), repeatTimes_succ,
      ht.hmergeRule_ok hb.sched, Res.andThen_ok]

/-- Settles O14: `HSEED` ends with 128 entries in order, from where `execAll_merges` goes on. -/
theorem buildEqualsItsSteps : Obligations.BuildEqualsItsSteps := by
  intro s
  obtain ⟨t, ht, h⟩ := hseedRule_ok s
  obtain ⟨hb, hn⟩ := h.buildInv
  have hcmd : exec .hseed s = .next (t.setBusy false) := wholeStep_ok ht
  have hbuild : exec .build s = stepEnd (fun t => t.setBusy false) (buildRule s) := rfl
  rw [List.cons_append, execAll_cons _ hcmd, execAll_merges 127 hb hn, hbuild, buildRule, ht, Res.andThen_ok]
  rfl

end Steps

end Sys2Proof.Machine
end

section
/-! SUPPORT. The tree a `BUILD` makes (spec/42_treebuilder.md R164 to R167): what every merge keeps of the trees that grow,
and the one tree that is left of them. -/

namespace Sys2Proof.Machine

section Growth

/-- The node `n` joins two different older nodes and carries the sum of their frequencies (R165). -/
def JoinsOlder (arena : List Node) (n : Nat) : Prop :=
  ∃ l r a b, arena[n]? = some ⟨Config.sent, some l, some r, a.freq + b.freq⟩ ∧ l ≠ r ∧
    l.toNat < n ∧ r.toNat < n ∧ arena[l.toNat]? = some a ∧ arena[r.toNat]? = some b

theorem JoinsOlder.append {arena : List Node} {n : Nat} (h : JoinsOlder arena n) (nd : Node) :
    JoinsOlder (arena ++ [nd]) n := by
  obtain ⟨l, r, a, b, hn, hne, hl, hr, ha, hb⟩ := h
  exact ⟨l, r, a, b, getElem?_snoc.2 (.inl hn), hne, hl, hr, getElem?_snoc.2 (.inl ha), getElem?_snoc.2 (.inl hb)⟩

/-- `BUILD` from `s` between two merges: the seeded leaves and the joining nodes, each entry with the frequency of its
tree's root, and each node the root of an entry's tree or the child of another. -/
structure Building (s t : State) : Prop where
  inv : BuildInv t
  leaves : ∀ c : Symbol, t.arena[c.val]? = some (seedNode s.freq c)
  joins : ∀ n, 128 ≤ n → n < t.nn → JoinsOlder t.arena n
  weights : ∀ e ∈ t.heap, ∃ nd, t.arena[e.root.toNat]? = some nd ∧ nd.freq = e.prio
  placed : ∀ n < t.nn, (∃ e ∈ t.heap, e.root.toNat = n) ∨ ∃ c ∈ childList t.arena, c.toNat = n
  total : prioSum t.heap = freqSum s.freq
  frame : ∃ h q a, t = { s with heap := h, hseq := q, arena := a, treeValid := false, tableValid := false }

variable {s t : State} {e1 e2 : Entry} {q : List Entry}

theorem seedEntry_root_toNat (f : Vector Freq 128) (c : Symbol) : (seedEntry f c).root.toNat = c.val :=
  nodeIdx_toNat (show c.val ≤ 16257 by omega)

theorem prioSum_seedEntry (f : Vector Freq 128) : prioSum (symbols.map (seedEntry f)) = freqSum f := by
  rw [prioSum, freqSum, List.map_map]
  refine congrArg List.sum (List.map_congr_left fun c _ => ?_)
  simp only [Function.comp_apply, seedEntry, BitVec.zeroExtend, BitVec.toNat_setWidth]
  omega

theorem Seeds.building (h : Seeds s [] t) : Building s t where
  inv := h.buildInv.1
  leaves := h.leaf
  joins n h128 hn := absurd hn (by rw [h.nn_eq]; omega)
  weights e he := by
    obtain ⟨c, rfl⟩ := h.mem_heap.1 he
    exact ⟨_, by rw [seedEntry_root_toNat, h.leaf], rfl⟩
  placed n hn := .inl ⟨_, h.mem_heap.2 ⟨⟨n, by rwa [← h.nn_eq]⟩, rfl⟩, seedEntry_root_toNat _ _⟩
  total := by rw [prioSum_perm h.heap_perm, prioSum_seedEntry]
  frame := h.frame

theorem merged_childList : childList (merged t e1 e2 q).arena = childList t.arena ++ [e1.root, e2.root] := by
  simp [merged, Node.children]

theorem mem_merged_heap {e : Entry} :
    e ∈ (merged t e1 e2 q).heap ↔ e = ⟨e1.prio + e2.prio, t.hseq, BitVec.ofNat 14 t.nn⟩ ∨ e ∈ q :=
  (heapInsert_perm _ _).mem_iff.trans List.mem_cons

/-- The number of the node a merge allocates is not cut by its 14 bits. -/
theorem TakesTwo.index_toNat (ht : TakesTwo t.heap e1 e2 q) (hs : SchedInv t) : (BitVec.ofNat 14 t.nn).toNat = t.nn := by
  have := ht.counts hs
  exact nodeIdx_toNat (show t.nn ≤ 16257 by omega)

section

variable (h : Building s t) (ht : TakesTwo t.heap e1 e2 q)
include h ht

theorem Building.merge_joins {n : Nat} (h128 : 128 ≤ n) (hn : n < t.nn + 1) : JoinsOlder (merged t e1 e2 q).arena n := by
  have hqueue := h.inv.sched.queue
  obtain ⟨h1, h2, hne, -⟩ := ht.mem_rest hqueue
  obtain hold | rfl := Nat.lt_succ_iff_lt_or_eq.1 hn
  · exact (h.joins n h128 hold).append _
  · obtain ⟨a, ha, haw⟩ := h.weights e1 h1
    obtain ⟨b, hb, hbw⟩ := h.weights e2 h2
    have hl := hqueue.entries e1 h1
    have hr := hqueue.entries e2 h2
    have hroots : e1.root ≠ e2.root := fun hroot => hne (List.inj_on_of_nodup_map hqueue.roots_nodup h1 h2 hroot)
    exact ⟨e1.root, e2.root, a, b, getElem?_snoc.2 (.inr ⟨rfl, by rw [haw, hbw]⟩), hroots, by omega, by omega,
      getElem?_snoc.2 (.inl ha), getElem?_snoc.2 (.inl hb)⟩

theorem Building.merge_weights {e : Entry} (he : e ∈ (merged t e1 e2 q).heap) :
    ∃ nd, (merged t e1 e2 q).arena[e.root.toNat]? = some nd ∧ nd.freq = e.prio := by
  obtain ⟨-, -, -, hrest⟩ := ht.mem_rest h.inv.sched.queue
  obtain rfl | he := mem_merged_heap.1 he
  · exact ⟨_, getElem?_snoc.2 (.inr ⟨ht.index_toNat h.inv.sched, rfl⟩), rfl⟩
  · obtain ⟨nd, hnd, hw⟩ := h.weights e ((hrest e).1 he).1
    exact ⟨nd, getElem?_snoc.2 (.inl hnd), hw⟩

/-- The roots of the two trees become children, and the new node the root of an entry's tree. -/
theorem Building.merge_placed {n : Nat} (hn : n < t.nn + 1) :
    (∃ e ∈ (merged t e1 e2 q).heap, e.root.toNat = n) ∨ ∃ c ∈ childList (merged t e1 e2 q).arena, c.toNat = n := by
  obtain ⟨-, -, -, hrest⟩ := ht.mem_rest h.inv.sched.queue
  simp only [mem_merged_heap, merged_childList, List.mem_append, List.mem_cons, List.not_mem_nil, or_false]
  obtain hn | rfl := Nat.lt_succ_iff_lt_or_eq.1 hn
  · obtain ⟨e, he, hroot⟩ | ⟨c, hc, hroot⟩ := h.placed n hn
    · by_cases he1 : e = e1
      · exact .inr ⟨e1.root, .inr (.inl rfl), he1 ▸ hroot⟩
      · by_cases he2 : e = e2
        · exact .inr ⟨e2.root, .inr (.inr rfl), he2 ▸ hroot⟩
        · exact .inl ⟨e, .inr ((hrest e).2 ⟨he, he1, he2⟩), hroot⟩
    · exact .inr ⟨c, .inl hc, hroot⟩
  · exact .inl ⟨_, .inl rfl, ht.index_toNat h.inv.sched⟩

theorem Building.merge : Building s (merged t e1 e2 q) where
  inv := ht.buildInv h.inv
  leaves c := getElem?_snoc.2 (.inl (h.leaves c))
  joins n h128 hn := h.merge_joins ht h128 (merged_nn ▸ hn)
  weights e he := h.merge_weights ht he
  placed n hn := h.merge_placed ht (merged_nn ▸ hn)
  total := by
    rw [merged, prioSum_perm (heapInsert_perm _ _), prioSum_cons, ht.prio_add h.inv.sched, ← h.total,
      prioSum_perm ht.perm, prioSum_cons, prioSum_cons, Nat.add_assoc]
  frame := by
    obtain ⟨_, _, _, rfl⟩ := h.frame
    exact ⟨_, _, _, rfl⟩

end

/-- One merge fewer than entries ends with one entry (R164). -/
theorem Building.merges (k : Nat) (h : Building s t) (hn : t.hn = k + 1) :
    ∃ u, repeatTimes hmergeRule k t = .ok () u ∧ Building s u ∧ u.hn = 1 := by
  induction k generalizing t with
  | zero => exact ⟨t, rfl, h, hn⟩
  | succ k ih =>
    obtain ⟨e1, e2, q, ht⟩ := exists_takesTwo (show 2 ≤ t.heap.length by rw [State.hn] at hn; omega)
    have hhn := merged_hn ht.perm
    obtain ⟨u, hu, h'⟩ := ih (h.merge ht) (by omega)
    exact ⟨u, by rw [repeatTimes_succ, ht.hmergeRule_ok h.inv.sched, Res.andThen_ok, hu], h'⟩

end Growth

section Tree

/-- What `BUILD` from `s` leaves (R165): the leaves and the joining nodes of one tree, in which every node but `ROOT` is a
child. -/
structure Built (s t : State) : Prop where
  inv : BuildInv t
  nodes : t.nn = 255
  leaves : ∀ c : Symbol, t.arena[c.val]? = some (seedNode s.freq c)
  joins : ∀ n, 128 ≤ n → n < 255 → JoinsOlder t.arena n
  linked : ∀ n < 254, ∃ c ∈ childList t.arena, c.toNat = n
  total : ∃ nd, t.arena[254]? = some nd ∧ nd.freq.toNat = freqSum s.freq
  frame : ∃ a, t = { s with heap := [], hseq := 255#8, arena := a, root := 254#14, treeValid := true, tableValid := false }

variable {s t : State} {e : Entry}

/-- The child of a joining node is older than it, so the node of highest number is no child. -/
theorem Building.child_lt (h : Building s t) (hne : t.heap ≠ []) {c : NodeIdx} (hc : c ∈ childList t.arena) :
    c.toNat + 1 < t.nn := by
  obtain ⟨nd, hnd, hc⟩ := List.mem_flatMap.1 hc
  obtain ⟨n, hn⟩ := List.mem_iff_getElem?.1 hnd
  have hlt : n < t.nn := (List.getElem?_eq_some_iff.1 hn).1
  have := ((h.inv.arena.forest hne).2 n nd hn).2 c hc
  omega

/-- The last entry's tree is the one whose root was allocated last, and it is the whole (R165). -/
theorem Building.take (h : Building s t) (he : t.heap = [e]) : Built s (taken t e) := by
  have hne : t.heap ≠ [] := by simp [he]
  have hn : t.hn = 1 := by simp [State.hn, he]
  obtain ⟨-, htotal, hseq⟩ := h.inv.sched.counts.resolve_left hne
  have hnn : t.nn = 255 := by omega
  have hplaced : ∀ n < 255, e.root.toNat = n ∨ ∃ c ∈ childList t.arena, c.toNat = n := by
    simpa [he, hnn] using h.placed
  have hroot : e.root.toNat = 254 := by
    refine (hplaced 254 (by omega)).resolve_right fun ⟨c, hc, hlast⟩ => ?_
    have := h.child_lt hne hc
    omega
  refine ⟨taken_buildInv h.inv he, hnn, h.leaves, fun n h128 hlt => h.joins n h128 (by omega), fun n hlt => ?_, ?_, ?_⟩
  · exact (hplaced n (by omega)).resolve_left (by omega)
  · obtain ⟨nd, hnd, hw⟩ := h.weights e (by simp [he])
    refine ⟨nd, hroot ▸ hnd, ?_⟩
    rw [hw, ← h.total, he]
    simp [prioSum]
  · have hq : t.hseq = 255#8 := BitVec.eq_of_toNat_eq (hseq.trans hnn)
    have hr : e.root = 254#14 := BitVec.eq_of_toNat_eq hroot
    rw [← hq, ← hr]
    obtain ⟨_, _, a, rfl⟩ := h.frame
    exact ⟨a, rfl⟩

/-- From every state `BUILD` ends with the whole tree (R164, R165). -/
theorem buildRule_ok (s : State) : ∃ t, buildRule s = .ok () t ∧ Built s t := by
  obtain ⟨t, ht, hseeds⟩ := hseedRule_ok s
  obtain ⟨u, hu, h, hn⟩ := hseeds.building.merges 127 hseeds.buildInv.2
  obtain ⟨e, he⟩ := List.length_eq_one_iff.1 hn
  refine ⟨taken u e, ?_, h.take he⟩
  rw [buildRule, ht, Res.andThen_ok, Config.nmerge, hu, Res.andThen_ok, htakeRule_eq he]

/-- Settles O15: `Built` says it, node by node. -/
theorem buildMakesTheFullTree : Obligations.BuildMakesTheFullTree := by
  intro s
  obtain ⟨t, ht, h⟩ := buildRule_ok s
  refine ⟨t.setBusy false, wholeStep_ok ht, h.nodes, h.leaves, fun k hk => h.joins (128 + k) (by omega) (by omega),
    h.total, ?_⟩
  obtain ⟨_, rfl⟩ := h.frame
  exact ⟨rfl, rfl⟩

end Tree

end Sys2Proof.Machine
end

section
/-! SUPPORT. The codes of a tree (spec/43_codegen.md R181 to R183, spec/42_treebuilder.md R167, R168): which path the walk of
`GEN` gives to which symbol, why no path to a leaf begins the path to another, and the paths of a built tree. -/

namespace Sys2Proof.Machine

section Paths

variable {arena : List Node} {n : NodeIdx} {nd : Node} {bit : Bool} {p q : Code} {a b : Byte}

theorem leafAt_nil : LeafAt arena n [] b ↔ ∃ nd, nodeAt arena n = some nd ∧ nd.isLeaf = true ∧ nd.sym = b := by
  simp [LeafAt, follow]

theorem leafAt_cons (hn : nodeAt arena n = some nd) :
    LeafAt arena n (bit :: p) b ↔ ∃ c, nd.child bit = some c ∧ LeafAt arena c p b := by
  cases hc : nd.child bit <;> simp [LeafAt, follow, hn, hc]

theorem LeafAt.nodeAt_start (h : LeafAt arena n p b) : ∃ nd, nodeAt arena n = some nd := by
  obtain ⟨m, nd, hm, hnd, -⟩ := h
  cases p with
  | nil => cases hm; exact ⟨nd, hnd⟩
  | cons bit p =>
    cases hn : nodeAt arena n with
    | none => simp [follow, hn] at hm
    | some nd => exact ⟨nd, rfl⟩

theorem child_eq_none (h : nd.isLeaf = true) (bit : Bool) : nd.child bit = none := by
  cases bit <;> simp_all [Node.isLeaf, Node.child]

theorem mem_children {c : NodeIdx} : c ∈ nd.children ↔ ∃ bit, nd.child bit = some c := by
  simp [Node.children, Node.child, Bool.exists_bool]

/-- A path to a leaf goes on to no other leaf. -/
theorem LeafAt.sym_eq_of_prefix (ha : LeafAt arena n p a) (hb : LeafAt arena n (p ++ q) b) : a = b := by
  induction p generalizing n with
  | nil =>
    obtain ⟨nd, hn, hleaf, rfl⟩ := leafAt_nil.1 ha
    cases q with
    | nil =>
      obtain ⟨nd', hn', -, rfl⟩ := leafAt_nil.1 hb
      rw [Option.some.inj (hn.symm.trans hn')]
    | cons bit q =>
      obtain ⟨c, hc, -⟩ := (leafAt_cons hn).1 hb
      rw [child_eq_none hleaf] at hc
      cases hc
  | cons bit p ih =>
    obtain ⟨nd, hn⟩ := ha.nodeAt_start
    obtain ⟨c, hc, ha⟩ := (leafAt_cons hn).1 ha
    obtain ⟨c', hc', hb⟩ := (leafAt_cons hn).1 hb
    cases hc.symm.trans hc'
    exact ih ha hb

end Paths

section Walk

/-- A walk has turned `table` into `table'`: a symbol that has a path in `paths` has one of these as its code, and every
other symbol has the code it had. -/
def Gives (paths : Symbol → Code → Prop) (table table' : Vector Code 128) : Prop :=
  ∀ c : Symbol, paths c table'[c.val] ∨ ((∀ p, ¬ paths c p) ∧ table'[c.val] = table[c.val])

/-- The paths through `n`, which stands at the end of `path`, to the leaves that carry a symbol. -/
def PathsThrough (arena : List Node) (n : NodeIdx) (path : Code) (c : Symbol) (p : Code) : Prop :=
  ∃ q, p = path ++ q ∧ LeafAt arena n q (symByte c)

variable {arena : List Node} {n : NodeIdx} {nd : Node} {path : Code} {table table' table'' : Vector Code 128}
  {paths paths' : Symbol → Code → Prop}

theorem Gives.congr (h : Gives paths table table') (hp : ∀ c p, paths' c p ↔ paths c p) : Gives paths' table table' := by
  simpa only [Gives, hp] using h

/-- One walk after another gives the paths of both. -/
theorem Gives.trans (h : Gives paths table table') (h' : Gives paths' table' table'') :
    Gives (fun c p => paths c p ∨ paths' c p) table table'' := by
  intro c
  obtain hnew | ⟨hnone, hkept⟩ := h' c
  · exact .inl (.inr hnew)
  · rw [hkept]
    obtain hold | ⟨hnone', hkept'⟩ := h c
    · exact .inl (.inl hold)
    · exact .inr ⟨fun p hp => hp.elim (hnone' p) (hnone p), hkept'⟩

theorem eq_symByte_iff {b : Byte} {c : Symbol} : b = symByte c ↔ symbolOf b = some c := by
  constructor
  · rintro rfl
    exact symbolOf_symByte c
  · intro h
    apply BitVec.eq_of_toNat_eq
    rw [symbolOf_eq_some.1 h, symbolOf_eq_some.1 (symbolOf_symByte c)]

/-- A leaf gives its symbol the path that leads to it (R181). -/
theorem assignCode_gives (hn : nodeAt arena n = some nd) (hleaf : nd.isLeaf = true) :
    Gives (PathsThrough arena n path) table (assignCode nd.sym path table) := by
  have hpaths : ∀ c p, PathsThrough arena n path c p ↔ p = path ∧ symbolOf nd.sym = some c := by
    intro c p
    rw [← eq_symByte_iff]
    constructor
    · rintro ⟨q, rfl, h⟩
      cases q with
      | nil => simpa [leafAt_nil, hn, hleaf] using h
      | cons bit q => simp [leafAt_cons hn, child_eq_none hleaf] at h
    · rintro ⟨rfl, h⟩
      exact ⟨[], by simp, leafAt_nil.2 ⟨nd, hn, hleaf, h⟩⟩
  intro c
  simp only [hpaths]
  unfold assignCode
  split
  · next d hd =>
    rw [hd, Vector.getElem_set]
    by_cases hdc : d = c
    · exact .inl ⟨if_pos (by rw [hdc]), by rw [hdc]⟩
    · exact .inr ⟨fun p h => hdc (Option.some.inj h.2), if_neg (Fin.val_ne_of_ne hdc)⟩
  · next hd => exact .inr ⟨by simp [hd], rfl⟩

/-- The paths through a node that is no leaf are those through its left child and those through its right child. -/
theorem pathsThrough_inner (hn : nodeAt arena n = some nd) (hleaf : nd.isLeaf ≠ true) (c : Symbol) (p : Code) :
    PathsThrough arena n path c p ↔
      (∃ l, nd.left = some l ∧ PathsThrough arena l (path ++ [false]) c p) ∨
        ∃ r, nd.right = some r ∧ PathsThrough arena r (path ++ [true]) c p := by
  constructor
  · rintro ⟨q, rfl, h⟩
    cases q with
    | nil => simp [leafAt_nil, hn, hleaf] at h
    | cons bit q =>
      obtain ⟨m, hm, hq⟩ := (leafAt_cons hn).1 h
      cases bit with
      | false => exact .inl ⟨m, hm, q, by simp, hq⟩
      | true => exact .inr ⟨m, hm, q, by simp, hq⟩
  · rintro (⟨m, hm, q, rfl, h⟩ | ⟨m, hm, q, rfl, h⟩)
    · exact ⟨false :: q, by simp, (leafAt_cons hn).2 ⟨m, hm, h⟩⟩
    · exact ⟨true :: q, by simp, (leafAt_cons hn).2 ⟨m, hm, h⟩⟩

/-- The walk of `GEN` from a node gives each symbol on a leaf below it a path to such a leaf (R181). -/
theorem visit_gives {fuel : Nat} (h : visit arena fuel n path table = .ok table') :
    Gives (PathsThrough arena n path) table table' := by
  induction fuel generalizing n path table table' with
  | zero => cases h
  | succ fuel ih =>
    rw [visit] at h
    split at h
    · cases h
    · next nd hn =>
      split at h
      · next hleaf =>
        cases h
        exact assignCode_gives hn hleaf
      · next hleaf =>
        have hinner := pathsThrough_inner (path := path) hn hleaf
        split at h
        · next l r hl hr =>
          split at h
          · next hleft => exact ((ih hleft).trans (ih h)).congr (by simpa [hl, hr] using hinner)
          · cases h
        · next hl hr => exact (ih h).congr (by simpa [hl, hr] using hinner)
        · next hl hr => exact (ih h).congr (by simpa [hl, hr] using hinner)
        · next hl hr => exact absurd (by simp [Node.isLeaf, hl, hr]) hleaf

/-- `GEN` on a valid tree ends, with a table that gives each symbol on a leaf a path from `ROOT` to it (R181, R182). -/
theorem genRule_ok {s : State} (ha : ArenaInv s) (hv : s.treeValid = true) :
    ∃ table, genRule s = .ok () ({ s with ct := table }.setTableValid true) ∧ Fits table ∧
      Gives (fun c p => LeafAt s.arena s.root p (symByte c)) emptyTable table := by
  obtain ⟨-, hroot, -, rank, hle, hrank⟩ := ha.tree hv
  obtain ⟨table, ht⟩ := visit_ends ha.inRange hrank hroot (Nat.lt_succ_of_le hle) [] emptyTable
  refine ⟨table, ?_, visit_fits le_rfl .empty ht, (visit_gives ht).congr fun c p => by simp [PathsThrough]⟩
  rw [genRule, if_neg (by simp [hv]), ht]

end Walk

section BuiltTree

variable {s t : State}

/-- A child in a built tree has an older node as its parent. -/
theorem Built.parent (h : Built s t) {c : NodeIdx} (hc : c ∈ childList t.arena) :
    ∃ m nd bit, nodeAt t.arena m = some nd ∧ nd.child bit = some c ∧ c.toNat < m.toNat ∧ m.toNat < 255 := by
  obtain ⟨nd, hnd, hc⟩ := List.mem_flatMap.1 hc
  obtain ⟨n, hn⟩ := List.mem_iff_getElem?.1 hnd
  have hlt : n < 255 := h.nodes ▸ (List.getElem?_eq_some_iff.1 hn).1
  obtain ⟨bit, hbit⟩ := mem_children.1 hc
  have hidx : (BitVec.ofNat 14 n).toNat = n := nodeIdx_toNat (show n ≤ 16257 by omega)
  refine ⟨BitVec.ofNat 14 n, nd, bit, by rwa [nodeAt, hidx], hbit, ?_, by omega⟩
  rw [hidx]
  by_cases h128 : n < 128
  · cases (h.leaves ⟨n, h128⟩).symm.trans hn
    exact absurd hc List.not_mem_nil
  · obtain ⟨l, r, a, b, hjoin, -, hl, hr, -⟩ := h.joins n (by omega) hlt
    cases hjoin.symm.trans hn
    simp only [Node.children, Option.toList_some, List.cons_append, List.nil_append, List.mem_cons, List.not_mem_nil,
      or_false] at hc
    obtain rfl | rfl := hc
    exacts [hl, hr]

theorem Built.root_eq (h : Built s t) : t.root = 254#14 := by
  obtain ⟨_, rfl⟩ := h.frame
  rfl

theorem Built.treeValid (h : Built s t) : t.treeValid = true := by
  obtain ⟨_, rfl⟩ := h.frame
  rfl

/-- A path from any node of a built tree is the end of one from `ROOT`, by the parents up to it. -/
theorem Built.leafAt_root (h : Built s t) {n : NodeIdx} {q : Code} {b : Byte} (hn : n.toNat < 255)
    (hq : LeafAt t.arena n q b) : ∃ p, LeafAt t.arena t.root p b := by
  induction k : 254 - n.toNat using Nat.strong_induction_on generalizing n q with
  | h k ih =>
    by_cases hroot : n.toNat = 254
    · have : n = t.root := h.root_eq ▸ BitVec.eq_of_toNat_eq hroot
      exact ⟨q, this ▸ hq⟩
    · obtain ⟨c, hc, hcn⟩ := h.linked n.toNat (by omega)
      cases BitVec.eq_of_toNat_eq hcn
      obtain ⟨m, nd, bit, hm, hbit, hlt, hm255⟩ := h.parent hc
      exact ih (254 - m.toNat) (by omega) hm255 ((leafAt_cons hm).2 ⟨n, hbit, hq⟩) rfl

/-- R167: in a built tree every symbol is on a leaf. -/
theorem Built.symbol_leafAt (h : Built s t) (c : Symbol) : ∃ p, LeafAt t.arena t.root p (symByte c) := by
  have hidx : (BitVec.ofNat 14 c.val).toNat = c.val := nodeIdx_toNat (show c.val ≤ 16257 by omega)
  refine h.leafAt_root (n := BitVec.ofNat 14 c.val) (q := []) (by omega) (leafAt_nil.2 ⟨seedNode s.freq c, ?_, rfl, rfl⟩)
  rw [nodeAt, hidx, h.leaves c]

/-- `ROOT` of a built tree is no leaf. -/
theorem Built.path_ne_nil (h : Built s t) {p : Code} {b : Byte} (hp : LeafAt t.arena t.root p b) : p ≠ [] := by
  rintro rfl
  obtain ⟨nd, hnd, hleaf, -⟩ := leafAt_nil.1 hp
  obtain ⟨l, r, x, y, hjoin, -⟩ := h.joins 254 (by omega) (by omega)
  rw [h.root_eq] at hnd
  cases hjoin.symm.trans hnd
  cases hleaf

/-- Of codes that are paths from one node to the leaves of their symbols none begins another (R168). -/
theorem prefixFree_of_leafAt {arena : List Node} {n : NodeIdx} {table : Vector Code 128}
    (h : ∀ c : Symbol, LeafAt arena n table[c.val] (symByte c)) : PrefixFree table := by
  rintro a b hne - ⟨q, hq⟩
  have hb := h b
  rw [← hq] at hb
  have := symbolOf_symByte a
  rw [(h a).sym_eq_of_prefix hb, symbolOf_symByte] at this
  exact hne (Option.some.inj this).symm

/-- Settles O17: every symbol is on a leaf of the built tree, so its code is a path from `ROOT` to that leaf. -/
theorem buildThenGenIsPrefixFree : Obligations.BuildThenGenIsPrefixFree := by
  intro s
  obtain ⟨t, ht, h⟩ := buildRule_ok s
  have ha : ArenaInv (t.setBusy false) := h.inv.arena.of_eq rfl rfl rfl id
  obtain ⟨table, hgen, hfits, hgives⟩ := genRule_ok ha h.treeValid
  have hleaf : ∀ c : Symbol, LeafAt t.arena t.root table[c.val] (symByte c) := fun c =>
    (hgives c).resolve_right fun ⟨hnone, _⟩ => (h.symbol_leafAt c).elim hnone
  exact ⟨t.setBusy false, _, wholeStep_ok ht, wholeStep_ok hgen,
    fun c => ⟨List.length_pos_of_ne_nil (h.path_ne_nil (hleaf c)), hfits c⟩, prefixFree_of_leafAt hleaf⟩

end BuiltTree

end Sys2Proof.Machine
end

section
/-! SUPPORT. The path to a leaf is its symbol's only one (spec/43_codegen.md R181 (d), R182): in an arena that meets its
invariant a symbol sits on one node, and one path leads from `ROOT` to a node. -/

namespace Sys2Proof.Machine

section OnePath

variable {s : State} {arena : List Node} {n m c : NodeIdx} {nd nd' : Node} {bit bit' : Bool} {p q : Code}

/-- Where the lists `f` makes share no element, an element is in one of them only. -/
theorem index_eq_of_nodup_flatMap {α β : Type} {l : List α} {f : α → List β} (h : (l.flatMap f).Nodup) {i j : Nat} {a b : α}
    {x : β} (hi : l[i]? = some a) (hj : l[j]? = some b) (ha : x ∈ f a) (hb : x ∈ f b) : i = j := by
  have hdisjoint := List.pairwise_iff_getElem.1 (List.nodup_flatMap.1 h).2
  obtain ⟨hi', rfl⟩ := List.getElem?_eq_some_iff.1 hi
  obtain ⟨hj', rfl⟩ := List.getElem?_eq_some_iff.1 hj
  obtain hlt | heq | hgt := Nat.lt_trichotomy i j
  · exact (hdisjoint i j hi' hj' hlt ha hb).elim
  · exact heq
  · exact (hdisjoint j i hj' hi' hgt hb ha).elim

theorem mem_childList_of_child (hn : nodeAt arena n = some nd) (hc : nd.child bit = some c) : c ∈ childList arena :=
  List.mem_flatMap.2 ⟨nd, List.mem_of_getElem? hn, mem_children.2 ⟨bit, hc⟩⟩

/-- A node with two different children has each on one side only. -/
theorem child_bit_unique (h : nd.children.Nodup) (hc : nd.child bit = some c) (hc' : nd.child bit' = some c) :
    bit = bit' := by
  cases bit <;> cases bit' <;> simp_all [Node.child, Node.children]

/-- R34: a node is the child of at most one node, and on one side. -/
theorem parent_unique (h : (childList arena).Nodup) (hn : nodeAt arena n = some nd) (hm : nodeAt arena m = some nd')
    (hc : nd.child bit = some c) (hc' : nd'.child bit' = some c) : n = m ∧ bit = bit' := by
  have hnm : n = m := BitVec.eq_of_toNat_eq <|
    index_eq_of_nodup_flatMap h hn hm (mem_children.2 ⟨bit, hc⟩) (mem_children.2 ⟨bit', hc'⟩)
  subst hnm
  cases hn.symm.trans hm
  exact ⟨rfl, child_bit_unique ((List.nodup_flatMap.1 h).1 nd (List.mem_of_getElem? hn)) hc hc'⟩

/-- The last branch of a path leaves a node that the rest of the path leads to. -/
theorem follow_concat : follow arena n (p ++ [bit]) = some c ↔
    ∃ m nd, follow arena n p = some m ∧ nodeAt arena m = some nd ∧ nd.child bit = some c := by
  induction p generalizing n with
  | nil => cases hn : nodeAt arena n <;> simp [follow, hn]
  | cons b p ih =>
    cases hn : nodeAt arena n with
    | none => simp [follow, hn]
    | some nd => cases hc : nd.child b <;> simp [follow, hn, hc, ih]

/-- One path leads to a node from a node that has no parent: each step back is to the only parent. -/
theorem follow_injective (h : (childList arena).Nodup) (hn : n ∉ childList arena) (hp : follow arena n p = some c)
    (hq : follow arena n q = some c) : p = q := by
  induction p using List.reverseRecOn generalizing q c with
  | nil =>
    cases hp
    cases q using List.reverseRecOn with
    | nil => rfl
    | append_singleton q bit =>
      obtain ⟨m, nd, -, hm, hc⟩ := follow_concat.1 hq
      exact absurd (mem_childList_of_child hm hc) hn
  | append_singleton p bit ih =>
    obtain ⟨m, nd, hpm, hm, hc⟩ := follow_concat.1 hp
    cases q using List.reverseRecOn with
    | nil =>
      cases hq
      exact absurd (mem_childList_of_child hm hc) hn
    | append_singleton q bit' =>
      obtain ⟨m', nd', hqm, hm', hc'⟩ := follow_concat.1 hq
      obtain ⟨rfl, rfl⟩ := parent_unique h hm hm' hc hc'
      rw [ih hpm hqm]

/-- R181 (d): a symbol sits on one node. -/
theorem ArenaInv.node_of_symbol (ha : ArenaInv s) {b : Symbol} (hn : nodeAt s.arena n = some nd)
    (hm : nodeAt s.arena m = some nd') (hb : nd.sym = symByte b) (hb' : nd'.sym = symByte b) : n = m := by
  have honce := ha.symbolsOnce
  rw [List.filterMap_eq_flatMap_toList] at honce
  exact BitVec.eq_of_toNat_eq <| index_eq_of_nodup_flatMap honce hn hm
    (Option.mem_toList.2 (eq_symByte_iff.1 hb)) (Option.mem_toList.2 (eq_symByte_iff.1 hb'))

/-- R182: in a valid tree a symbol has at most one path to a leaf. -/
theorem ArenaInv.leafAt_path_unique (ha : ArenaInv s) (hv : s.treeValid = true) {b : Symbol}
    (hp : LeafAt s.arena s.root p (symByte b)) (hq : LeafAt s.arena s.root q (symByte b)) : p = q := by
  obtain ⟨m, nd, hpm, hm, -, hb⟩ := hp
  obtain ⟨m', nd', hqm, hm', -, hb'⟩ := hq
  obtain rfl := ha.node_of_symbol hm hm' hb hb'
  obtain ⟨-, -, hroot, -⟩ := ha.tree hv
  exact follow_injective ha.oneParent hroot hpm hqm

/-- Settles O16: the walk gives a symbol on a leaf a path to it, which is its only one, and the others the empty code of
the fresh table. -/
theorem genGivesEveryLeafItsPath : Obligations.GenGivesEveryLeafItsPath := by
  intro s ha hv
  obtain ⟨table, hgen, -, hgives⟩ := genRule_ok ha hv
  refine ⟨_, wholeStep_ok hgen, fun c path hleaf => ?_, fun c hnone => ?_, rfl⟩
  · obtain hpath | ⟨hno, -⟩ := hgives c
    · exact ha.leafAt_path_unique hv hpath hleaf
    · exact absurd hleaf (hno path)
  · obtain hpath | ⟨-, hempty⟩ := hgives c
    · exact absurd ⟨_, hpath⟩ hnone
    · exact hempty.trans (emptyTable_getElem c)

end OnePath

end Sys2Proof.Machine
end

section
/-! SUPPORT. The code table image (spec/44_codetable_io.md): the image's length and its emission (R192, R193), an equation
per row of the parser's table (R194, R196 to R198), and the parse of an image, line by line (R199). -/

namespace Sys2Proof.Machine

section Dump

/-- R192: a line is the digits, a space, the code's bits and a line end. -/
theorem hiLine_length (i : Symbol) (c : Code) : (hiLine i c).length = ((decDigits i).length + 2) + c.length := by
  simp [hiLine, codeChars]
  omega

/-- R192: 274 index digits, 128 spaces and 128 line ends. -/
theorem sum_digits_space_lineEnd : (symbols.map fun i => (decDigits i).length + 2).sum = 530 := by decide +kernel

/-- Settles O21: the sum over the lines splits into what every image has (`sum_digits_space_lineEnd`) and the codes. -/
theorem imageLengthIsFixedPlusCodes : Obligations.ImageLengthIsFixedPlusCodes := by
  intro table
  have hlines : (hiImage table).length =
      (symbols.map fun i => ((decDigits i).length + 2) + table[i.val].length).sum + 1 := by
    simp only [hiImage, List.length_cons, List.length_flatMap, hiLine_length]
  rw [hlines, List.sum_map_add, sum_digits_space_lineEnd, Nat.add_right_comm]

theorem hidumpRule_valid {s : State} (h : s.tableValid = true) : hidumpRule s = .ok () (s.emit (hiImage s.ct)) := by
  simp [hidumpRule, h]

theorem hidumpRule_invalid {s : State} (h : s.tableValid = false) : hidumpRule s = .raised .missingTable 0#32 s := by
  simp [hidumpRule, h]

/-- Settles O20: `HIDUMP` is a whole step, and its rule has an equation for each value of `TABLE_VALID`. -/
theorem hidumpEmitsTheImage : Obligations.HidumpEmitsTheImage :=
  fun _ => ⟨fun h => wholeStep_ok (hidumpRule_valid h), fun h => wholeStep_raised (hidumpRule_invalid h)⟩

end Dump

section Classes

variable {c : Byte}

theorem isLF_iff : isLF c ↔ c = 0x0A#8 := by simp [isLF]

theorem isDigit_iff : isDigit c ↔ 0x30 ≤ c.toNat ∧ c.toNat ≤ 0x39 := by simp [isDigit]

theorem isBit_iff : isBit c ↔ c = 0x30#8 ∨ c = 0x31#8 := by simp [isBit]

theorem isWS_iff : isWS c ↔ c = 0x20#8 ∨ c = 0x09#8 := by simp [isWS]

/-- A line end is in no other class (R194). -/
theorem isLF_excludes (h : isLF c) : isDigit c = false ∧ isBit c = false ∧ isWS c = false := by
  obtain rfl := isLF_iff.1 h
  decide

/-- White space is in no other class (R194). -/
theorem isWS_excludes (h : isWS c) : isDigit c = false ∧ isBit c = false ∧ isLF c = false := by
  obtain rfl | rfl := isWS_iff.1 h <;> decide

theorem isDigit_of_isBit (h : isBit c) : isDigit c := by
  obtain rfl | rfl := isBit_iff.1 h <;> decide

/-- A digit, and so a bit, is no line end and no white space (R194). -/
theorem isDigit_excludes (h : isDigit c) : isLF c = false ∧ isWS c = false :=
  ⟨Bool.eq_false_iff.2 fun hl => by simp [(isLF_excludes hl).1] at h,
    Bool.eq_false_iff.2 fun hw => by simp [(isWS_excludes hw).1] at h⟩

theorem nextIndex_eq_some {i j : Symbol} {d : Nat} : nextIndex i d = some j ↔ j.val = i.val * 10 + d := by
  simp only [nextIndex, Option.dite_none_right_eq_some, Option.some.injEq, Fin.ext_iff]
  exact ⟨fun ⟨_, h⟩ => h.symm, fun h => ⟨h ▸ j.isLt, h.symm⟩⟩

theorem nextIndex_eq_none {i : Symbol} {d : Nat} : nextIndex i d = none ↔ 127 < i.val * 10 + d := by
  simp only [nextIndex, dite_eq_right_iff, reduceCtorEq, imp_false]
  omega

end Classes

section ParserTable

variable {s : State} {c : Byte} {i : Symbol}

theorem hiloadByte_first_lf (hp : s.pst = .first) (hc : isLF c) : hiloadByte c s = .ok () { s with pst := .sol } := by
  simp [hiloadByte, hp, hc]

theorem hiloadByte_first_other (hp : s.pst = .first) (hc : ¬ isLF c) : hiloadByte c s = .ok () s := by
  simp [hiloadByte, hp, hc]

theorem hiloadByte_sol_lf (hp : s.pst = .sol) (hc : isLF c) : hiloadByte c s = .ok () s := by
  simp [hiloadByte, hp, hc]

theorem hiloadByte_sol_digit (hp : s.pst = .sol) (hc : isDigit c) (hi : i.val = digitVal c) :
    hiloadByte c s = .ok () { s with pidx := i, pst := .idx } := by
  have hnext : nextIndex 0 (digitVal c) = some i := nextIndex_eq_some.2 (by simp [hi])
  simp [hiloadByte, hp, hc, isDigit_excludes hc, hnext]

theorem hiloadByte_sol_other (hp : s.pst = .sol) (hd : ¬ isDigit c) (hl : ¬ isLF c) :
    hiloadByte c s = .raised .hiFormat (BitVec.ofNat 32 c.toNat) s := by
  simp [hiloadByte, hp, hd, hl]

theorem hiloadByte_idx_digit (hp : s.pst = .idx) (hc : isDigit c) (hi : i.val = s.pidx.val * 10 + digitVal c) :
    hiloadByte c s = .ok () { s with pidx := i } := by
  simp [hiloadByte, hp, hc, nextIndex_eq_some.2 hi]

theorem hiloadByte_idx_digit_past (hp : s.pst = .idx) (hc : isDigit c) (hi : 127 < s.pidx.val * 10 + digitVal c) :
    hiloadByte c s = .raised .hiFormat (BitVec.ofNat 32 c.toNat) s := by
  simp [hiloadByte, hp, hc, nextIndex_eq_none.2 hi]

theorem hiloadByte_idx_ws (hp : s.pst = .idx) (hc : isWS c) :
    hiloadByte c s = .ok () { s with pbuf := [], pst := .sep } := by
  simp [hiloadByte, hp, hc, isWS_excludes hc]

theorem hiloadByte_idx_lf (hp : s.pst = .idx) (hc : isLF c) :
    hiloadByte c s = .ok () { s.setCode s.pidx [] with pst := .sol } := by
  simp [hiloadByte, hp, hc, isLF_excludes hc]

theorem hiloadByte_idx_other (hp : s.pst = .idx) (hd : ¬ isDigit c) (hw : ¬ isWS c) (hl : ¬ isLF c) :
    hiloadByte c s = .raised .hiFormat (BitVec.ofNat 32 c.toNat) s := by
  simp [hiloadByte, hp, hd, hw, hl]

theorem hiloadByte_sep_ws (hp : s.pst = .sep) (hc : isWS c) : hiloadByte c s = .ok () s := by
  simp [hiloadByte, hp, hc]

theorem hiloadByte_sep_bit (hp : s.pst = .sep) (hc : isBit c) :
    hiloadByte c s = .ok () { s with pbuf := [bitOfChar c], pst := .code } := by
  simp [hiloadByte, hp, hc, isDigit_excludes (isDigit_of_isBit hc)]

theorem hiloadByte_sep_lf (hp : s.pst = .sep) (hc : isLF c) :
    hiloadByte c s = .ok () { s.setCode s.pidx [] with pst := .sol } := by
  simp [hiloadByte, hp, hc, isLF_excludes hc]

theorem hiloadByte_sep_other (hp : s.pst = .sep) (hw : ¬ isWS c) (hb : ¬ isBit c) (hl : ¬ isLF c) :
    hiloadByte c s = .raised .invalidCodeChar (lineInfo s.pidx c) s := by
  simp [hiloadByte, hp, hw, hb, hl]

theorem hiloadByte_code_bit (hp : s.pst = .code) (hc : isBit c) (hn : s.pbuf.length ≠ Config.codeMax) :
    hiloadByte c s = .ok () { s with pbuf := s.pbuf ++ [bitOfChar c] } := by
  simp [hiloadByte, hp, hc, hn]

theorem hiloadByte_code_bit_full (hp : s.pst = .code) (hc : isBit c) (hn : s.pbuf.length = Config.codeMax) :
    hiloadByte c s = .raised .codeTooLong (BitVec.ofNat 32 (s.pidx.val * 256)) s := by
  simp [hiloadByte, hp, hc, hn, lineInfo]

theorem hiloadByte_code_lf (hp : s.pst = .code) (hc : isLF c) :
    hiloadByte c s = .ok () { s.setCode s.pidx s.pbuf with pst := .sol } := by
  simp [hiloadByte, hp, hc, isLF_excludes hc]

theorem hiloadByte_code_other (hp : s.pst = .code) (hb : ¬ isBit c) (hl : ¬ isLF c) :
    hiloadByte c s = .raised .invalidCodeChar (lineInfo s.pidx c) s := by
  simp [hiloadByte, hp, hb, hl]

/-- With no line open the end rule only makes the table valid (R198). -/
theorem hiloadEnd_closed (hp : s.pst = .first ∨ s.pst = .sol) : hiloadEnd s = .ok () (s.setTableValid true) := by
  obtain hp | hp := hp <;> simp [hiloadEnd, hp]

/-- An open line without a code bit is completed with the empty code (R198). -/
theorem hiloadEnd_clears (hp : s.pst = .idx ∨ s.pst = .sep) :
    hiloadEnd s = .ok () ((s.setCode s.pidx []).setTableValid true) := by
  obtain hp | hp := hp <;> simp [hiloadEnd, hp]

/-- An open line inside its code is completed with the bits read so far (R198). -/
theorem hiloadEnd_stores (hp : s.pst = .code) :
    hiloadEnd s = .ok () ((s.setCode s.pidx s.pbuf).setTableValid true) := by
  simp [hiloadEnd, hp]

end ParserTable

section Load

variable {s t : State} {c : Byte} {q : List Item}

theorem exec_hiload_start (hp : s.phase = .start) :
    exec .hiload s = .next { s with ct := emptyTable, tableValid := false, treeValid := false, pst := .first, pidx := 0,
                                    pbuf := [], phase := .run } :=
  streamStep_start (startRule := hiloadStart) hp

theorem exec_hiload_reads (hp : s.phase = .run) (hq : s.inq = .byte c :: q)
    (h : hiloadByte c { s with inq := q } = .ok () t) : exec .hiload s = .next t :=
  (streamStep_byte hp hq).trans (congrArg (stepEnd id) h)

theorem exec_hiload_faults {e : ErrCode} {w : Word} (hp : s.phase = .run) (hq : s.inq = .byte c :: q)
    (h : hiloadByte c { s with inq := q } = .raised e w t) : exec .hiload s = .next (takeFault e w t) :=
  (streamStep_byte hp hq).trans (congrArg (stepEnd id) h)

theorem exec_hiload_eos (hp : s.phase = .run) (hq : s.inq = .eos :: q) (h : hiloadEnd { s with inq := q } = .ok () t) :
    exec .hiload s = .next (t.setBusy false) :=
  (streamStep_eos hp hq).trans (congrArg (stepEnd fun t => t.setBusy false) h)

/-- Settles O22: the start rule is `exec_hiload_start`; the end rule has an equation for each of the three ways a last line
can stand. -/
theorem hiloadStartAndEnd : Obligations.HiloadStartAndEnd := by
  refine ⟨fun s hp => ⟨_, exec_hiload_start hp, emptyTable_getElem, rfl⟩, fun s q hp hq => ?_⟩
  have hset (v : Code) : (∀ d, d ≠ s.pidx → (s.setCode s.pidx v).codeAt d = s.codeAt d) ∧
      (s.setCode s.pidx v).codeAt s.pidx = v :=
    ⟨fun d hd => by rw [codeAt_setCode, if_neg hd.symm], by rw [codeAt_setCode, if_pos rfl]⟩
  obtain hp' | hp' | hp' : (s.pst = .first ∨ s.pst = .sol) ∨ (s.pst = .idx ∨ s.pst = .sep) ∨ s.pst = .code := by
    cases s.pst <;> simp
  · exact ⟨_, exec_hiload_eos hp hq (hiloadEnd_closed hp'), fun _ _ => rfl, fun _ => rfl,
      fun h => by grind, fun h => by grind, rfl⟩
  · exact ⟨_, exec_hiload_eos hp hq (hiloadEnd_clears hp'), (hset []).1, fun h => by grind,
      fun _ => (hset []).2, fun h => by grind, rfl⟩
  · exact ⟨_, exec_hiload_eos hp hq (hiloadEnd_stores hp'), (hset s.pbuf).1, fun h => by grind,
      fun h => by grind, fun _ => (hset s.pbuf).2, rfl⟩

/-- Settles O23: a clause is the equation of its row of the parser's table, as the step of `HILOAD` that takes the byte. -/
theorem hiloadParsesByItsTable : Obligations.HiloadParsesByItsTable := by
  intro s c q hphase hq u bad next digit bit ws
  have reads {t : State} (h : hiloadByte c u = .ok () t) : next t := exec_hiload_reads hphase hq h
  have faults {e : ErrCode} {w : Word} (h : hiloadByte c u = .raised e w u) : next (takeFault e w u) :=
    exec_hiload_faults hphase hq h
  have hlf := isLF_iff (c := c)
  have hdigit : isDigit c ↔ digit := isDigit_iff
  have hbit : isBit c ↔ bit := isBit_iff
  have hws : isWS c ↔ ws := isWS_iff
  refine ⟨?first_lf, ?first_other, ?sol_lf, ?sol_digit, ?sol_other, ?idx_digit, ?idx_past, ?idx_ws, ?idx_lf, ?idx_other,
    ?sep_ws, ?sep_bit, ?sep_lf, ?sep_other, ?code_full, ?code_bit, ?code_lf, ?code_other⟩
  case first_lf => exact fun hp hc => reads (hiloadByte_first_lf hp (hlf.2 hc))
  case first_other => exact fun hp hc => reads (hiloadByte_first_other hp (mt hlf.1 hc))
  case sol_lf => exact fun hp hc => reads (hiloadByte_sol_lf hp (hlf.2 hc))
  case sol_digit =>
    exact fun hp hd => ⟨⟨c.toNat - 0x30, by have := hd.2; omega⟩, rfl, reads (hiloadByte_sol_digit hp (hdigit.2 hd) rfl)⟩
  case sol_other => exact fun hp hd hl => faults (hiloadByte_sol_other hp (mt hdigit.1 hd) (mt hlf.1 hl))
  case idx_digit =>
    exact fun hp hd hi => ⟨⟨_, Nat.lt_succ_of_le hi⟩, rfl, reads (hiloadByte_idx_digit hp (hdigit.2 hd) rfl)⟩
  case idx_past => exact fun hp hd hi => faults (hiloadByte_idx_digit_past hp (hdigit.2 hd) hi)
  case idx_ws => exact fun hp hw => reads (hiloadByte_idx_ws hp (hws.2 hw))
  case idx_lf => exact fun hp hl => reads (hiloadByte_idx_lf hp (hlf.2 hl))
  case idx_other =>
    exact fun hp hd hw hl => faults (hiloadByte_idx_other hp (mt hdigit.1 hd) (mt hws.1 hw) (mt hlf.1 hl))
  case sep_ws => exact fun hp hw => reads (hiloadByte_sep_ws hp (hws.2 hw))
  case sep_bit => exact fun hp hb => reads (hiloadByte_sep_bit hp (hbit.2 hb))
  case sep_lf => exact fun hp hl => reads (hiloadByte_sep_lf hp (hlf.2 hl))
  case sep_other =>
    exact fun hp hw hb hl => faults (hiloadByte_sep_other hp (mt hws.1 hw) (mt hbit.1 hb) (mt hlf.1 hl))
  case code_full => exact fun hp hb hn => faults (hiloadByte_code_bit_full hp (hbit.2 hb) hn)
  case code_bit => exact fun hp hb hn => reads (hiloadByte_code_bit hp (hbit.2 hb) hn)
  case code_lf => exact fun hp hl => reads (hiloadByte_code_lf hp (hlf.2 hl))
  case code_other => exact fun hp hb hl => faults (hiloadByte_code_other hp (mt hbit.1 hb) (mt hlf.1 hl))

end Load

section Reload

/-- What a `HILOAD` in `RUN` works on beside `INQ`: the table and the parser's registers (R35, R42). -/
structure Parser where
  table : Vector Code 128
  pst : ParserState
  idx : Symbol
  buf : Code

/-- `s` with the parser's part and `INQ` as given. -/
def State.withParser (s : State) (p : Parser) (q : List Item) : State :=
  { s with ct := p.table, pst := p.pst, pidx := p.idx, pbuf := p.buf, inq := q }

/-- As many events as there are bytes take them from the head of `INQ` and bring the parser from `p` to `p'`; nothing else
changes. -/
def Parses (s : State) (bs : List Byte) (p p' : Parser) : Prop :=
  ∀ q, Sys2Proof.core.run bs.length (s.withParser p (bs.map Item.byte ++ q)) = .next (s.withParser p' q)

variable {s : State} {xs ys : List Byte} {p p' p'' : Parser} {c : Byte} {T : Vector Code 128} {i j : Symbol} {v w : Code}

theorem Parses.nil : Parses s [] p p := fun _ => rfl

theorem Parses.append (h : Parses s xs p p') (h' : Parses s ys p' p'') : Parses s (xs ++ ys) p p'' := by
  intro q
  rw [List.length_append, List.map_append, List.append_assoc, run_add (h _), h']

/-- `HILOAD` is between its steps and no turn is scheduled. -/
structure Loading (s : State) : Prop where
  busy : s.busy = true
  phase : s.phase = .run
  command : decode s.cmdr = .ok .hiload
  sched : s.sched = []

theorem Loading.step_eq (h : Loading s) (hq : s.inq ≠ []) : step s = exec .hiload s :=
  step_command h.sched (by simp [State.engineEnabled, h.busy, hq]) h.command

theorem Loading.withParser (h : Loading s) (p : Parser) (q : List Item) : Loading (s.withParser p q) :=
  ⟨h.busy, h.phase, h.command, h.sched⟩

/-- One event is one row of the parser's table. -/
theorem Loading.parses_singleton (h : Loading s)
    (hb : ∀ q, hiloadByte c (s.withParser p q) = .ok () (s.withParser p' q)) : Parses s [c] p p' := by
  intro q
  have hrun := h.withParser p (.byte c :: q)
  exact run_succ ((hrun.step_eq (List.cons_ne_nil _ _)).trans (exec_hiload_reads hrun.phase rfl (hb q)))

theorem digitChar_toNat {d : Nat} (h : d < 10) : (digitChar d).toNat = 0x30 + d := by
  simp [digitChar]
  omega

theorem isDigit_digitChar {d : Nat} (h : d < 10) : isDigit (digitChar d) := by
  rw [isDigit_iff, digitChar_toNat h]
  omega

theorem digitVal_digitChar {d : Nat} (h : d < 10) : digitVal (digitChar d) = d := by
  rw [digitVal, digitChar_toNat h, Nat.add_sub_cancel_left]

theorem isBit_bitChar (b : Bool) : isBit (bitChar b) := by cases b <;> rfl

theorem bitOfChar_bitChar (b : Bool) : bitOfChar (bitChar b) = b := by cases b <;> rfl

section
variable (h : Loading s)
include h

theorem Loading.parses_firstDigit {d : Nat} (hd : d < 10) (hi : i.val = d) :
    Parses s [digitChar d] ⟨T, .sol, j, v⟩ ⟨T, .idx, i, v⟩ :=
  h.parses_singleton fun _ =>
    hiloadByte_sol_digit rfl (isDigit_digitChar hd) (hi.trans (digitVal_digitChar hd).symm)

theorem Loading.parses_nextDigit {d : Nat} (hd : d < 10) (hi : i.val = j.val * 10 + d) :
    Parses s [digitChar d] ⟨T, .idx, j, v⟩ ⟨T, .idx, i, v⟩ :=
  h.parses_singleton fun _ =>
    hiloadByte_idx_digit rfl (isDigit_digitChar hd) (by rw [digitVal_digitChar hd]; exact hi)

/-- R191 (c): the digits of an index give the index back. -/
theorem Loading.parses_decDigits (i : Symbol) : Parses s (decDigits i) ⟨T, .sol, j, v⟩ ⟨T, .idx, i, v⟩ := by
  have hi := i.isLt
  unfold decDigits
  split
  · exact h.parses_firstDigit (by omega) rfl
  · split
    · exact (h.parses_firstDigit (d := i.val / 10) (i := ⟨i.val / 10, by omega⟩) (by omega) rfl).append
        (h.parses_nextDigit (by omega) (Nat.div_add_mod' i.val 10).symm)
    · have htens : i.val / 10 = i.val / 100 * 10 + i.val / 10 % 10 := by omega
      exact (h.parses_firstDigit (d := i.val / 100) (i := ⟨i.val / 100, by omega⟩) (by omega) rfl).append
        ((h.parses_nextDigit (i := ⟨i.val / 10, by omega⟩) (by omega) htens).append
          (h.parses_nextDigit (by omega) (Nat.div_add_mod' i.val 10).symm))

theorem Loading.parses_space : Parses s [0x20#8] ⟨T, .idx, i, v⟩ ⟨T, .sep, i, []⟩ :=
  h.parses_singleton fun _ => hiloadByte_idx_ws rfl rfl

/-- Inside a code the bits are appended to the buffer, while there is room for them (R197). -/
theorem Loading.parses_codeChars (hn : (v ++ w).length ≤ 127) :
    Parses s (codeChars w) ⟨T, .code, i, v⟩ ⟨T, .code, i, v ++ w⟩ := by
  induction w generalizing v with
  | nil => rw [List.append_nil]; exact .nil
  | cons b w ih =>
    have hroom : v.length ≠ Config.codeMax := by
      rw [List.length_append, List.length_cons] at hn
      exact Nat.ne_of_lt (by simp only [Config.codeMax]; omega)
    have hbit : Parses s [bitChar b] ⟨T, .code, i, v⟩ ⟨T, .code, i, v ++ [b]⟩ :=
      h.parses_singleton fun _ =>
        (hiloadByte_code_bit rfl (isBit_bitChar b) hroom).trans (by rw [bitOfChar_bitChar]; rfl)
    rw [List.append_cons] at hn ⊢
    exact hbit.append (ih hn)

/-- A code and its line end, from the separator on, store the code (R197). -/
theorem Loading.parses_codeLine (hn : w.length ≤ 127) :
    Parses s (codeChars w ++ [0x0A#8]) ⟨T, .sep, i, []⟩ ⟨T.set i.val w, .sol, i, w⟩ := by
  cases w with
  | nil => exact h.parses_singleton fun _ => hiloadByte_sep_lf rfl rfl
  | cons b w =>
    have hbit : Parses s [bitChar b] ⟨T, .sep, i, []⟩ ⟨T, .code, i, [b]⟩ :=
      h.parses_singleton fun _ => (hiloadByte_sep_bit rfl (isBit_bitChar b)).trans (by rw [bitOfChar_bitChar]; rfl)
    have hend : Parses s [0x0A#8] ⟨T, .code, i, b :: w⟩ ⟨T.set i.val (b :: w), .sol, i, b :: w⟩ :=
      h.parses_singleton fun _ => hiloadByte_code_lf rfl rfl
    exact (hbit.append (h.parses_codeChars hn)).append hend

/-- A line of the image stores its code in its slot. -/
theorem Loading.parses_hiLine (i : Symbol) (hn : w.length ≤ 127) :
    Parses s (hiLine i w) ⟨T, .sol, j, v⟩ ⟨T.set i.val w, .sol, i, w⟩ := by
  rw [hiLine, List.append_assoc]
  exact ((h.parses_decDigits i).append h.parses_space).append (h.parses_codeLine hn)

/-- The lines of the symbols `is` store their codes; the other slots stay. -/
theorem Loading.parses_lines {table : Vector Code 128} (hn : ∀ c : Symbol, table[c.val].length ≤ 127) (is : List Symbol) :
    ∃ T' j' v', Parses s (is.flatMap fun i => hiLine i table[i.val]) ⟨T, .sol, j, v⟩ ⟨T', .sol, j', v'⟩ ∧
      ∀ c : Symbol, T'[c.val] = if c ∈ is then table[c.val] else T[c.val] := by
  induction is generalizing T j v with
  | nil => exact ⟨T, j, v, .nil, fun _ => rfl⟩
  | cons i is ih =>
    obtain ⟨T', j', v', hparse, hT'⟩ := ih (T := T.set i.val table[i.val]) (j := i) (v := table[i.val])
    refine ⟨T', j', v', (h.parses_hiLine i (hn i)).append hparse, fun c => ?_⟩
    by_cases hc : c = i
    · simp [hT', hc]
    · have hslot : i.val ≠ c.val := fun h => hc (Fin.ext h.symm)
      simp [hT', hc, hslot]

/-- The image of a table of codes that fit, read from the start of the parser, leaves the table (R199). -/
theorem Loading.parses_hiImage {table : Vector Code 128} (hn : ∀ c : Symbol, table[c.val].length ≤ 127) :
    ∃ j' v', Parses s (hiImage table) ⟨T, .first, j, v⟩ ⟨table, .sol, j', v'⟩ := by
  obtain ⟨T', j', v', hlines, hT'⟩ := h.parses_lines (T := T) (j := j) (v := v) hn symbols
  have htable : T' = table := Vector.ext fun k hk => (hT' ⟨k, hk⟩).trans (if_pos (List.mem_finRange _))
  have hfirst : Parses s [0x0A#8] ⟨T, .first, j, v⟩ ⟨T, .sol, j, v⟩ :=
    h.parses_singleton fun _ => hiloadByte_first_lf rfl rfl
  rw [htable] at hlines
  exact ⟨j', v', hfirst.append hlines⟩

end

/-- Settles O24: the start rule puts the parser at its start, the image's bytes leave the table (`Loading.parses_hiImage`),
and `eos` finds no line open. -/
theorem hiloadReloadsAnImage : Obligations.HiloadReloadsAnImage := by
  rintro s table rest hn ⟨hbusy, hphase, hcmdr, hsched⟩ hq
  have hd : decode s.cmdr = .ok .hiload := hcmdr ▸ decode_encode .hiload
  have hstart := (step_command hsched (by simp [State.engineEnabled, hbusy, hphase]) hd).trans (exec_hiload_start hphase)
  have hload : Loading { s with tableValid := false, treeValid := false, phase := .run } := ⟨hbusy, rfl, hd, hsched⟩
  obtain ⟨j, v, hparse⟩ := hload.parses_hiImage (T := emptyTable) (j := 0) (v := []) hn
  have hrun := hload.withParser ⟨table, .sol, j, v⟩ (.eos :: rest)
  have hend := (hrun.step_eq (List.cons_ne_nil _ _)).trans
    (exec_hiload_eos hrun.phase rfl (hiloadEnd_closed (.inr rfl)))
  have himage := hparse (.eos :: rest)
  rw [← hq] at himage
  exact ⟨_, (run_succ hstart).trans ((run_add himage).trans (run_succ hend)), rfl⟩

end Reload

end Sys2Proof.Machine
end

section
/-! SUPPORT. The tree `RECON` builds as a function of the table (spec/45_reconstruct.md R211, R212): `tableTree` says which
paths there are and what each carries, every step of the walk is a step towards it, and the arena stays below `NODE_CAP`. -/

namespace Sys2Proof.Machine

section TableTree

variable {l : Code → Option Byte} {code : Symbol → Code} {p p' q : Code} {xs : List Symbol} {c d : Symbol}

/-- The tree `l` with all nodes on `path` made that were absent (R211). A tree is seen as what is on the node at the end of
each path: no node, or one with its `sym` field. -/
def marked (path : Code) (l : Code → Option Byte) (q : Code) : Option Byte :=
  (l q).or (if q <+: path then some Config.sent else none)

/-- The tree `l` with the path of a symbol's code, which carries the symbol at its end (R211). -/
def withCode (code : Symbol → Code) (l : Code → Option Byte) (c : Symbol) : Code → Option Byte :=
  if code c = [] then l else Function.update (marked (code c) l) (code c) (some (symByte c))

/-- The tree of the codes of the symbols `xs`, added to the sentinel root in this order (R211). -/
def tableTree (code : Symbol → Code) (xs : List Symbol) : Code → Option Byte :=
  xs.foldl (withCode code) (marked [] fun _ => none)

theorem marked_isSome : (marked p l q).isSome = true ↔ (l q).isSome = true ∨ q <+: p := by
  by_cases h : q <+: p <;> simp [marked, h]

theorem marked_of_isSome (h : (l q).isSome = true) : marked p l q = l q := by
  simp [marked, Option.or_of_isSome h]

/-- Nothing is made on a path whose nodes are there. -/
theorem marked_eq_self (h : ∀ q, q <+: p → (l q).isSome = true) : marked p l = l := by
  funext q
  by_cases hq : q <+: p
  · exact marked_of_isSome (h q hq)
  · simp [marked, hq]

theorem marked_marked (h : p <+: p') : marked p' (marked p l) = marked p' l := by
  funext q
  by_cases hq : q <+: p
  · simp [marked, hq, hq.trans h]
  · simp [marked, hq]

theorem withCode_of_nil (h : code c = []) : withCode code l c = l := if_pos h

theorem withCode_end (h : code c ≠ []) : withCode code l c (code c) = some (symByte c) := by
  simp [withCode, h]

theorem withCode_of_ne (h : code c ≠ []) (hq : q ≠ code c) : withCode code l c q = marked (code c) l q := by
  simp [withCode, h, hq]

theorem withCode_isSome :
    (withCode code l c q).isSome = true ↔ (l q).isSome = true ∨ (code c ≠ [] ∧ q <+: code c) := by
  by_cases h : code c = []
  · simp [withCode_of_nil h, h]
  · by_cases hq : q = code c
    · simp [hq, withCode_end h, h]
    · simp [withCode_of_ne h hq, marked_isSome, h]

@[simp] theorem tableTree_nil : tableTree code [] = marked [] fun _ => none := rfl

@[simp] theorem tableTree_concat : tableTree code (xs ++ [c]) = withCode code (tableTree code xs) c := by
  simp [tableTree]

/-- A path is in the tree exactly when it is the root's or begins a code (R212). -/
theorem tableTree_isSome : (tableTree code xs q).isSome = true ↔ q = [] ∨ ∃ c ∈ xs, q <+: code c := by
  induction xs using List.reverseRecOn with
  | nil => simp [marked_isSome]
  | append_singleton xs c ih =>
    rw [tableTree_concat, withCode_isSome, ih]
    simp only [List.mem_append, List.mem_singleton, or_and_right, exists_or, exists_eq_left, or_assoc]
    by_cases hc : code c = []
    · simp [hc, or_comm]
    · simp only [hc, ne_eq, not_false_eq_true, true_and]

/-- The sentinel is no symbol's byte, so a node made carries no symbol (R32). -/
theorem marked_eq_symByte : marked p l q = some (symByte d) ↔ l q = some (symByte d) := by
  have hsent : Config.sent ≠ symByte d := fun he => by
    have hd := symbolOf_symByte d
    rw [← he] at hd
    cases hd
  cases hl : l q <;> simp [marked, hl, hsent]

/-- A symbol is on the tree at the end of its own code only (R212 (c)). -/
theorem code_of_tableTree (h : tableTree code xs q = some (symByte d)) : code d = q := by
  induction xs using List.reverseRecOn with
  | nil => cases marked_eq_symByte.1 (tableTree_nil ▸ h)
  | append_singleton xs c ih =>
    rw [tableTree_concat] at h
    by_cases hc : code c = []
    · rw [withCode_of_nil hc] at h
      exact ih h
    · by_cases hq : q = code c
      · rw [hq, withCode_end hc, Option.some.injEq, eq_symByte_iff, symbolOf_symByte, Option.some.injEq] at h
        rw [hq, h]
      · exact ih (marked_eq_symByte.1 (withCode_of_ne hc hq ▸ h))

/-- The end of a code carries the last symbol that has the code (R212 (c)). -/
theorem tableTree_end (hxs : xs.Pairwise (· < ·)) (hc : c ∈ xs) (hne : code c ≠ []) :
    ∃ d, tableTree code xs (code c) = some (symByte d) ∧ code d = code c ∧ ∀ d' ∈ xs, code d' = code c → d' ≤ d := by
  induction xs using List.reverseRecOn with
  | nil => cases hc
  | append_singleton xs x ih =>
    obtain ⟨hxs, -, hlast⟩ := List.pairwise_append.1 hxs
    rw [tableTree_concat]
    by_cases hx : code x = code c
    · refine ⟨x, hx ▸ withCode_end (hx ▸ hne), hx, fun d' hd' _ => ?_⟩
      obtain hd' | hd' := List.mem_append.1 hd'
      · exact (hlast d' hd' x (List.mem_singleton_self x)).le
      · exact (List.mem_singleton.1 hd').le
    · have hc' : c ∈ xs := (List.mem_append.1 hc).resolve_right fun h => hx (by rw [List.mem_singleton.1 h])
      obtain ⟨d, hd, hcode, hmax⟩ := ih hxs hc'
      refine ⟨d, ?_, hcode, fun d' hd' he => ?_⟩
      · by_cases hnil : code x = []
        · rwa [withCode_of_nil hnil]
        · rw [withCode_of_ne hnil (Ne.symm hx), marked_of_isSome (by simp [hd]), hd]
      · obtain hd' | hd' := List.mem_append.1 hd'
        · exact hmax d' hd' he
        · exact absurd (List.mem_singleton.1 hd' ▸ he) hx

end TableTree

section Labels

variable {arena : List Node} {n m cur : NodeIdx} {nd : Node} {bit : Bool} {p q : Code} {b : Byte}

/-- What is on the node that a path from the root leads to: its `sym` field, where there is a node (R211: the root is 0). -/
def labelAt (arena : List Node) (p : Code) : Option Byte :=
  ((follow arena 0#14 p).bind (nodeAt arena)).map Node.sym

theorem labelAt_eq_some : labelAt arena p = some b ↔
    ∃ m nd, follow arena 0#14 p = some m ∧ nodeAt arena m = some nd ∧ nd.sym = b := by
  simp [labelAt, Option.bind_eq_some_iff]

theorem follow_cons : follow arena n (bit :: p) = ((nodeAt arena n).bind (·.child bit)).bind (follow arena · p) := by
  cases hn : nodeAt arena n <;> simp [follow, hn]

/-- A path leads along child links only, so to a node below `NN` (R34). -/
theorem follow_lt (hin : ∀ c ∈ childList arena, c.toNat < arena.length) (hn : n.toNat < arena.length)
    (h : follow arena n p = some m) : m.toNat < arena.length := by
  cases p using List.reverseRecOn with
  | nil => cases h; exact hn
  | append_singleton p bit =>
    obtain ⟨k, nd, -, hk, hm⟩ := follow_concat.1 h
    exact hin m (mem_childList_of_child hk hm)

theorem labelAt_isSome (hin : ∀ c ∈ childList arena, c.toNat < arena.length) (h0 : (0#14).toNat < arena.length) :
    (labelAt arena p).isSome = true ↔ (follow arena 0#14 p).isSome = true := by
  cases hp : follow arena 0#14 p with
  | none => simp [labelAt, hp]
  | some m =>
    obtain ⟨nd, hm⟩ := nodeAt_isSome.2 (follow_lt hin h0 hp)
    simp [labelAt, hp, hm]

theorem follow_snoc :
    follow arena n (p ++ [bit]) = (follow arena n p).bind fun m => (nodeAt arena m).bind (·.child bit) :=
  Option.ext fun c => by simp [follow_concat, Option.bind_eq_some_iff]

/-- The nodes on the way are there. -/
theorem follow_isSome_of_prefix (h : (follow arena n p).isSome = true) (hq : q <+: p) :
    (follow arena n q).isSome = true := by
  obtain ⟨r, rfl⟩ := hq
  induction q generalizing n with
  | nil => rfl
  | cons bit q ih =>
    rw [List.cons_append, follow_cons] at h
    rw [follow_cons]
    cases hc : (nodeAt arena n).bind (·.child bit) with
    | none => simp [hc] at h
    | some c => exact ih (by simpa [hc] using h)

theorem nodeAt_set (h : cur.toNat < arena.length) :
    nodeAt (arena.set cur.toNat nd) m = if m = cur then some nd else nodeAt arena m := by
  by_cases hm : m = cur
  · simp [nodeAt, hm, h]
  · have hne : cur.toNat ≠ m.toNat := fun he => hm (BitVec.eq_of_toNat_eq he.symm)
    simp [nodeAt, hm, List.getElem?_set_ne hne]

/-- A symbol put on a node moves no path. -/
theorem follow_setSym (h : nodeAt arena cur = some nd) :
    follow (arena.set cur.toNat { nd with sym := b }) n p = follow arena n p := by
  induction p generalizing n with
  | nil => rfl
  | cons bit p ih =>
    simp only [follow_cons, ih, nodeAt_set (nodeAt_isSome.1 ⟨nd, h⟩)]
    by_cases hn : n = cur
    · subst hn
      simp [h, Node.child]
    · simp [hn]

/-- A symbol put on the node at the end of a path is at the end of that path only (R34: no other path leads there). -/
theorem labelAt_setSym (hone : (childList arena).Nodup) (hroot : 0#14 ∉ childList arena)
    (h : nodeAt arena cur = some nd) (hp : follow arena 0#14 p = some cur) :
    labelAt (arena.set cur.toNat { nd with sym := b }) = Function.update (labelAt arena) p (some b) := by
  have hset := fun m => nodeAt_set (m := m) (nd := { nd with sym := b }) (nodeAt_isSome.1 ⟨nd, h⟩)
  funext q
  by_cases hq : q = p
  · subst hq
    simp [labelAt, follow_setSym h, hp, hset]
  · rw [Function.update_of_ne hq, labelAt, labelAt, follow_setSym h]
    cases hm : follow arena 0#14 q with
    | none => rfl
    | some m =>
      have hne : m ≠ cur := fun he => hq (follow_injective hone hroot (he ▸ hm) hp)
      simp [hset, hne]

theorem child_setChild (c : NodeIdx) (bit' : Bool) :
    (nd.setChild bit c).child bit' = if bit' = bit then some c else nd.child bit' := by
  cases bit <;> cases bit' <;> rfl

end Labels

section Walk

variable {xs : List Symbol} {j k : Nat} {n m cur : NodeIdx} {nd : Node} {bit : Bool} {p q : Code} {c : Symbol} {s t u : State}

theorem Growing.root_not_child (h : Growing xs k cur s) : 0#14 ∉ childList s.arena := fun h0 =>
  absurd (h.links _ h0).1 (lt_irrefl _)

theorem Growing.root_here (h : Growing xs k cur s) : (0#14).toNat < s.nn := h.atRoot.here

theorem Growing.follow_lt (h : Growing xs k cur s) (hp : follow s.arena 0#14 p = some m) : m.toNat < s.nn :=
  Machine.follow_lt (fun c hc => (h.links c hc).2) (n := 0#14) h.root_here hp

theorem Growing.labelAt_isSome (h : Growing xs k cur s) :
    (labelAt s.arena p).isSome = true ↔ (follow s.arena 0#14 p).isSome = true :=
  Machine.labelAt_isSome (fun c hc => (h.links c hc).2) h.root_here

/-- The nodes after one was made: the new one, and the one it was made under (R211). -/
theorem Growing.nodeAt_grown (h : Growing xs k cur s) : nodeAt (grown s cur nd bit).arena m =
    if m = cur then some (nd.setChild bit (BitVec.ofNat 14 s.nn))
    else if m.toNat = s.nn then some freshNode else nodeAt s.arena m := by
  have hlt : cur.toNat < (s.arena ++ [freshNode]).length := by
    have := h.here
    simp only [List.length_append, List.length_singleton, State.nn] at this ⊢
    omega
  rw [grown, nodeAt_set hlt]
  refine if_congr Iff.rfl rfl ?_
  rw [nodeAt, List.getElem?_append]
  split
  · next hm => rw [if_neg (show m.toNat ≠ s.nn from hm.ne), nodeAt]
  · next hm =>
    rw [List.getElem?_singleton, nodeAt, List.getElem?_eq_none (Nat.le_of_not_lt hm)]
    refine if_congr ?_ rfl rfl
    simp only [State.nn]
    omega

/-- The older nodes' children after one was made: it is the one new child (R211). -/
theorem Growing.child_grown (h : Growing xs k cur s) (hnd : nodeAt s.arena cur = some nd) (b : Bool) (hm : m.toNat < s.nn) :
    (nodeAt (grown s cur nd bit).arena m).bind (·.child b) =
      if m = cur ∧ b = bit then some (BitVec.ofNat 14 s.nn) else (nodeAt s.arena m).bind (·.child b) := by
  rw [h.nodeAt_grown, if_neg hm.ne]
  by_cases hmc : m = cur
  · subst hmc
    simp [child_setChild, hnd]
  · simp [hmc]

/-- The node made is fresh (R211). -/
theorem Growing.nodeAt_grown_new (h : Growing xs k cur s) :
    nodeAt (grown s cur nd bit).arena (BitVec.ofNat 14 s.nn) = some freshNode := by
  have hidx := nodeIdx_toNat h.cap
  have hne : BitVec.ofNat 14 s.nn ≠ cur := fun he => absurd h.here (by rw [← he, hidx]; exact lt_irrefl _)
  rw [h.nodeAt_grown, if_neg hne, if_pos hidx]

/-- A node made under the end of a path adds the one longer path and no other (R211). -/
theorem Growing.follow_grown (h : Growing xs k cur s) (hp : follow s.arena 0#14 p = some cur)
    (hnd : nodeAt s.arena cur = some nd) (hn : nd.child bit = none) :
    follow (grown s cur nd bit).arena 0#14 q =
      if q = p ++ [bit] then some (BitVec.ofNat 14 s.nn) else follow s.arena 0#14 q := by
  induction q using List.reverseRecOn with
  | nil => simp [follow]
  | append_singleton q b ih =>
    rw [follow_snoc, ih, follow_snoc]
    by_cases hq : q = p ++ [bit]
    · subst hq
      simp [h.nodeAt_grown_new, child_eq_none (nd := freshNode) rfl, follow_snoc, hp, hnd, hn]
    · rw [if_neg hq]
      cases hm : follow s.arena 0#14 q with
      | none =>
        have hne : q ≠ p := fun he => by simp [he, hp] at hm
        simp [hne]
      | some m =>
        have hcur : m = cur ↔ q = p :=
          ⟨fun he => follow_injective h.oneParent h.root_not_child (he ▸ hm) hp,
            fun he => Option.some.inj (hm.symm.trans (he ▸ hp))⟩
        simp [h.child_grown hnd b (h.follow_lt hm), hcur]

/-- A node made under the end of a path is on the one longer path and carries no symbol (R211). -/
theorem Growing.labelAt_grown (h : Growing xs k cur s) (hp : follow s.arena 0#14 p = some cur)
    (hnd : nodeAt s.arena cur = some nd) (hn : nd.child bit = none) :
    labelAt (grown s cur nd bit).arena = marked (p ++ [bit]) (labelAt s.arena) := by
  funext q
  rw [labelAt, h.follow_grown hp hnd hn]
  by_cases hq : q = p ++ [bit]
  · subst hq
    simp [h.nodeAt_grown_new, marked, labelAt, follow_snoc, hp, hnd, hn, freshNode]
  · rw [if_neg hq]
    cases hm : follow s.arena 0#14 q with
    | none =>
      have hno : ¬ q <+: p ++ [bit] := fun hpre => by
        have := follow_isSome_of_prefix (by rw [hp]; rfl) ((List.prefix_concat_iff.1 hpre).resolve_left hq)
        simp [hm] at this
      simp [marked, labelAt, hm, hno]
    | some m =>
      rw [marked_of_isSome (h.labelAt_isSome.2 (by simp [hm])), labelAt, hm, Option.bind_some, Option.bind_some,
        h.nodeAt_grown, if_neg (h.follow_lt hm).ne]
      by_cases hmc : m = cur
      · simp [hmc, hnd]
      · rw [if_neg hmc]

/-- What a piece of `RECON` that makes at most `j` nodes does to the state (R211). -/
structure Grows (s : State) (j : Nat) (t : State) : Prop where
  frame : t = { s with arena := t.arena }
  room : t.nn ≤ s.nn + j
  freq : (∀ nd ∈ s.arena, nd.freq = 0#39) → ∀ nd ∈ t.arena, nd.freq = 0#39

theorem Grows.refl (s : State) : Grows s 0 s := ⟨rfl, le_rfl, id⟩

theorem Grows.trans (h : Grows s j t) (h' : Grows t k u) : Grows s (j + k) u where
  frame := by rw [h'.frame, h.frame]
  room := by have := h.room; have := h'.room; omega
  freq h0 := h'.freq (h.freq h0)

theorem Grows.codeAt_eq (h : Grows s j t) : t.codeAt = s.codeAt := by rw [h.frame]; rfl

/-- A node written again keeps its frequency. -/
theorem Grows.setNode (hnd : nodeAt s.arena cur = some nd) {nd' : Node} (hf : nd'.freq = nd.freq) :
    Grows s 0 (s.setNode cur nd') where
  frame := rfl
  room := by simp [State.nn]
  freq h0 x hx := by
    obtain hx | rfl := List.mem_or_eq_of_mem_set hx
    · exact h0 x hx
    · exact hf.trans (h0 nd (List.mem_of_getElem? hnd))

theorem Growing.grows_grown (h : Growing xs k cur s) (hnd : nodeAt s.arena cur = some nd) :
    Grows s 1 (grown s cur nd bit) := by
  have hnew : Grows s 1 { s with arena := s.arena ++ [freshNode] } :=
    ⟨rfl, by simp [State.nn], fun h0 x hx => (List.mem_append.1 hx).elim (h0 x) fun hx => by
      rw [List.mem_singleton.1 hx]; rfl⟩
  have hnd' : nodeAt (s.arena ++ [freshNode]) cur = some nd := by
    rwa [nodeAt, List.getElem?_append_left h.here]
  exact hnew.trans (.setNode (s := { s with arena := s.arena ++ [freshNode] }) hnd' (by cases bit <;> rfl))

/-- What the walk along the path `p`, with at most `j` nodes made, leaves: the path is there and leads to the node the walk
ends at (R211). -/
structure Walked (s : State) (p : Code) (j : Nat) (n : NodeIdx) (t : State) : Prop extends Grows s j t where
  here : follow t.arena 0#14 p = some n
  labels : labelAt t.arena = marked p (labelAt s.arena)

/-- Where a path is there, the walk makes no node. -/
theorem Growing.walked_self (h : Growing xs k cur s) (hp : follow s.arena 0#14 p = some n) : Walked s p 0 n s where
  toGrows := .refl s
  here := hp
  labels := (marked_eq_self fun _ hq =>
    h.labelAt_isSome.2 (follow_isSome_of_prefix (by rw [hp]; rfl) hq)).symm

/-- A step of the walk from the end of `p`, with room for a node (R211, R212 (a)). -/
theorem growStep_ok (bit : Bool) (h : Growing xs (k + 1) cur s) (hroom : s.nn < Config.nodeCap)
    (hp : follow s.arena 0#14 p = some cur) :
    ∃ n t, growStep cur bit s = .ok n t ∧ Walked s (p ++ [bit]) 1 n t := by
  obtain ⟨nd, hnd⟩ := nodeAt_isSome.2 h.here
  rw [growStep, readNode_eq_ok.2 ⟨hnd, rfl⟩, Res.andThen_ok]
  cases hn : nd.child bit with
  | some n =>
    have hself := h.walked_self (p := p ++ [bit]) (n := n) (by simp [follow_snoc, hp, hnd, hn])
    exact ⟨n, s, rfl, { hself with room := Nat.le_succ _ }⟩
  | none =>
    dsimp only
    rw [alloc_eq_ok.2 ⟨hroom.ne, rfl, rfl⟩]
    exact ⟨_, grown s cur nd bit, rfl, h.grows_grown hnd, by simp [h.follow_grown hp hnd hn],
      h.labelAt_grown hp hnd hn⟩

/-- The walk of a code from the end of `p`, with room for as many nodes as it has bits (R211, R212 (a)). -/
theorem growPath_ok (path : Code) (h : Growing xs k cur s) (hk : path.length ≤ k)
    (hroom : s.nn + path.length ≤ Config.nodeCap) (hp : follow s.arena 0#14 p = some cur) :
    ∃ n t, growPath path cur s = .ok n t ∧ Walked s (p ++ path) path.length n t := by
  induction path generalizing k cur s p with
  | nil => exact ⟨cur, s, rfl, by simpa using h.walked_self hp⟩
  | cons bit rest ih =>
    rw [List.length_cons] at hk hroom
    obtain ⟨k, rfl⟩ : ∃ j, k = j + 1 := ⟨k - 1, by omega⟩
    obtain ⟨n, t, ht, hw⟩ := growStep_ok bit h (by omega) hp
    have := hw.room
    obtain ⟨m, u, hu, hw'⟩ := ih ((growStep_ensures bit h).of_ok ht) (by omega) (by omega) hw.here
    rw [List.append_assoc, List.singleton_append] at hw'
    refine ⟨m, u, by rw [growPath, ht, Res.andThen_ok, hu], ?_, hw'.here, ?_⟩
    · rw [List.length_cons, Nat.add_comm]
      exact hw.toGrows.trans hw'.toGrows
    · rw [hw'.labels, hw.labels]
      exact marked_marked ⟨rest, by simp⟩

/-- One symbol's iteration adds its code to the tree (R211). -/
theorem growSymbol_ok (h : Growing (c :: xs) 127 0#14 s) (hroom : s.nn + (s.codeAt c).length ≤ Config.nodeCap) :
    ∃ t, growSymbol 0#14 c s = .ok () t ∧ Grows s (s.codeAt c).length t ∧
      labelAt t.arena = withCode s.codeAt (labelAt s.arena) c := by
  rw [growSymbol]
  by_cases hc : s.codeAt c = []
  · exact ⟨s, by simp [hc], by simpa [hc] using Grows.refl s, (withCode_of_nil hc).symm⟩
  · rw [if_neg (by simpa using hc)]
    obtain ⟨n, t, ht, hw⟩ := growPath_ok (s.codeAt c) h (h.codes c) hroom (p := []) rfl
    obtain ⟨j, hg⟩ := (growPath_ensures _ (h.codes c) h).of_ok ht
    obtain ⟨nd, hnd⟩ := nodeAt_isSome.2 hg.here
    have hplace : Grows t 0 (t.setNode n { nd with sym := symByte c }) := .setNode hnd rfl
    refine ⟨_, ?_, hw.toGrows.trans hplace, ?_⟩
    · rw [ht, Res.andThen_ok, readNode_eq_ok.2 ⟨hnd, rfl⟩, Res.andThen_ok]
    · rw [State.setNode_arena, labelAt_setSym hg.oneParent hg.root_not_child hnd hw.here, hw.labels, withCode, if_neg hc,
        List.nil_append]

/-- The loop over symbols adds their codes to the tree, with room for all their bits (R211, R212 (a)). -/
theorem growSymbols_ok (xs : List Symbol) (h : Growing xs 127 0#14 s)
    (hroom : s.nn + (xs.map fun c => (s.codeAt c).length).sum ≤ Config.nodeCap) :
    ∃ t, forEach (growSymbol 0#14) xs s = .ok () t ∧ Grows s (xs.map fun c => (s.codeAt c).length).sum t ∧
      labelAt t.arena = xs.foldl (withCode s.codeAt) (labelAt s.arena) := by
  induction xs generalizing s with
  | nil => exact ⟨s, rfl, .refl s, rfl⟩
  | cons c xs ih =>
    rw [List.map_cons, List.sum_cons] at hroom ⊢
    obtain ⟨t, ht, hg, hl⟩ := growSymbol_ok h (by omega)
    have := hg.room
    obtain ⟨u, hu, hg', hl'⟩ := ih ((growSymbol_ensures c xs s h).of_ok ht) (by rw [hg.codeAt_eq]; omega)
    rw [hg.codeAt_eq] at hg' hl'
    exact ⟨u, by rw [forEach_cons, ht, Res.andThen_ok, hu], hg.trans hg', by rw [hl', hl, List.foldl_cons]⟩

end Walk

section Recon

variable {s : State}

/-- The state `RECON` leaves, with the arena it builds (R211). -/
def rebuilt (s : State) (arena : List Node) : State :=
  { s with arena := arena, heap := [], root := 0#14, treeValid := true }

/-- R212 (a): the codes have at most 128 × 127 bits together. -/
theorem TableInv.codeBits_le (h : TableInv s) : (symbols.map fun c => (s.codeAt c).length).sum ≤ 128 * 127 := by
  have hsum := List.sum_le_card_nsmul (symbols.map fun c => (s.codeAt c).length) 127 fun n hn => by
    obtain ⟨c, -, rfl⟩ := List.mem_map.1 hn
    exact h.codes c
  simpa [symbols] using hsum

theorem labelAt_root : labelAt [freshNode] = marked [] fun _ => none := by
  funext q
  cases q with
  | nil => rfl
  | cons bit q => cases bit <;> rfl

/-- With a valid table `RECON` is the loop over symbols from the sentinel root, node 0 (R211). -/
theorem reconRule_valid (hv : s.tableValid = true) : reconRule s =
    (forEach (growSymbol 0#14) symbols { cleared s with arena := [freshNode] }).andThen fun _ u =>
      .ok () ({ u with root := 0#14 }.setTreeValid true) := by
  have hroot : alloc freshNode (cleared s) = .ok 0#14 { cleared s with arena := [freshNode] } :=
    alloc_eq_ok.2 ⟨show 0 ≠ Config.nodeCap by decide, rfl, rfl⟩
  rw [reconRule, if_neg (by simp [hv])]
  exact congrArg (Res.andThen · _) hroot

/-- `RECON` on codes that fit ends with the tree of the table (R211, R212). -/
theorem reconRule_ok (h : TableInv s) (hv : s.tableValid = true) :
    ∃ arena, reconRule s = .ok () (rebuilt s arena) ∧ ArenaInv (rebuilt s arena) ∧
      labelAt arena = tableTree s.codeAt symbols ∧ ∀ nd ∈ arena, nd.freq = 0#39 := by
  have hbegin := Growing.begin h.codes
  obtain ⟨t, ht, hg, hl⟩ := growSymbols_ok symbols hbegin (Nat.add_le_add_left h.codeBits_le 1)
  have hend := (forEach_ensures (P := fun xs => Growing xs 127 0#14) growSymbol_ensures symbols _ hbegin).of_ok ht
  have hframe : { t with root := 0#14 }.setTreeValid true = rebuilt s t.arena := by rw [hg.frame]; rfl
  refine ⟨t.arena, ?_, hframe ▸ hend.finish.arena, hl.trans (congrArg (List.foldl _ · symbols) labelAt_root), hg.freq ?_⟩
  · rw [reconRule_valid hv, ht, Res.andThen_ok, hframe]
  · intro nd hnd
    rw [List.mem_singleton.1 hnd]
    rfl

/-- A valid tree has a node at the end of a path exactly when there is something on it. -/
theorem ArenaInv.labelAt_isSome {arena : List Node} {p : Code} (h : ArenaInv (rebuilt s arena)) :
    (labelAt arena p).isSome = true ↔ (follow arena 0#14 p).isSome = true := by
  obtain ⟨-, hroot, -⟩ := h.tree rfl
  exact Machine.labelAt_isSome h.inRange hroot

theorem symbols_pairwise_lt : symbols.Pairwise (· < ·) := (List.sortedLT_finRange 128).pairwise

/-- Settles O18: the arena `RECON` leaves is the tree of the table (`reconRule_ok`), whose paths are `tableTree_isSome` and
whose ends are `tableTree_end`. -/
theorem reconBuildsTheTableTree : Obligations.ReconBuildsTheTableTree := by
  intro s h hv
  obtain ⟨arena, hrule, ha, hl, hfreq⟩ := reconRule_ok h hv
  refine ⟨_, wholeStep_ok hrule, fun path => ?_, fun c hc => ?_, hfreq, rfl⟩
  · refine ha.labelAt_isSome.symm.trans ?_
    rw [hl, tableTree_isSome]
    constructor
    · rintro (rfl | ⟨c, -, hc⟩)
      · exact ⟨0, List.nil_prefix⟩
      · exact ⟨c, hc⟩
    · rintro ⟨c, hc⟩
      exact .inr ⟨c, List.mem_finRange c, hc⟩
  · obtain ⟨d, hd, hcode, hmax⟩ := tableTree_end symbols_pairwise_lt (List.mem_finRange c) hc
    obtain ⟨m, nd, hm, hnd, hsym⟩ := labelAt_eq_some.1 (hl ▸ hd)
    exact ⟨m, nd, d, hm, hnd, hsym, hcode, fun d' => hmax d' (List.mem_finRange d')⟩

/-- A node that no path goes on from is a leaf. -/
theorem isLeaf_of_follow_none {arena : List Node} {n m : NodeIdx} {nd : Node} {p : Code}
    (hm : follow arena n p = some m) (hnd : nodeAt arena m = some nd)
    (hno : ∀ bit, follow arena n (p ++ [bit]) = none) : nd.isLeaf = true := by
  have hchild : ∀ bit, nd.child bit = none := fun bit => by simpa [follow_snoc, hm, hnd] using hno bit
  have hleft := hchild false
  have hright := hchild true
  simp_all [Node.isLeaf, Node.child]

/-- R212 (f): where no code begins another each ends at a leaf that carries its symbol. -/
theorem leafAt_code {arena : List Node} (ha : ArenaInv (rebuilt s arena)) (hl : labelAt arena = tableTree s.codeAt symbols)
    (hfree : PrefixFree s.ct) {c : Symbol} (hc : s.codeAt c ≠ []) : LeafAt arena 0#14 (s.codeAt c) (symByte c) := by
  have hbegins : ∀ d, s.codeAt c <+: s.codeAt d → d = c := fun d hd => by
    by_contra hne
    exact hfree c d (Ne.symm hne) hc hd
  obtain ⟨d, hd, hcode, -⟩ := tableTree_end symbols_pairwise_lt (List.mem_finRange c) hc
  obtain rfl := hbegins d (hcode ▸ List.prefix_refl _)
  obtain ⟨m, nd, hm, hnd, hsym⟩ := labelAt_eq_some.1 (hl ▸ hd)
  refine ⟨m, nd, hm, hnd, isLeaf_of_follow_none hm hnd fun bit => ?_, hsym⟩
  by_contra hsome
  obtain hnil | ⟨e, -, he⟩ := tableTree_isSome.1 (hl ▸ ha.labelAt_isSome.2 (Option.isSome_iff_ne_none.2 hsome))
  · exact absurd hnil (by simp)
  · obtain rfl := hbegins e ((List.prefix_append _ _).trans he)
    simpa using he.length_le

/-- R212 (c): a leaf carries a symbol at the end of the symbol's code only. -/
theorem codeAt_of_leafAt {arena : List Node} (hl : labelAt arena = tableTree s.codeAt symbols) {c : Symbol} {path : Code}
    (h : LeafAt arena 0#14 path (symByte c)) : s.codeAt c = path := by
  obtain ⟨m, nd, hm, hnd, -, hsym⟩ := h
  exact code_of_tableTree (hl ▸ labelAt_eq_some.2 ⟨m, nd, hm, hnd, hsym⟩)

/-- Settles O19: `GEN` writes back the paths to the leaves (O16). A code that begins no other is the path to its symbol's
leaf (`leafAt_code`), and a symbol's leaf is at the end of its code (`codeAt_of_leafAt`). -/
theorem genUndoesRecon : Obligations.GenUndoesRecon := by
  intro s h hv hfree
  obtain ⟨arena, hrule, ha, hl, -⟩ := reconRule_ok h hv
  have ha' : ArenaInv ((rebuilt s arena).setBusy false) := ha.of_eq rfl rfl rfl id
  obtain ⟨u, hgen, hleaf, hnone, -⟩ := genGivesEveryLeafItsPath _ ha' rfl
  refine ⟨_, u, wholeStep_ok hrule, hgen, Vector.ext fun i hi => ?_⟩
  have hcode : ∀ c, u.codeAt c = s.codeAt c := fun c => by
    by_cases hex : ∃ path, LeafAt arena 0#14 path (symByte c)
    · obtain ⟨path, hpath⟩ := hex
      exact (hleaf c path hpath).trans (codeAt_of_leafAt hl hpath).symm
    · have hnil : s.codeAt c = [] := by_contra fun hc => hex ⟨_, leafAt_code ha hl hfree hc⟩
      exact (hnone c hex).trans hnil.symm
  exact hcode ⟨i, hi⟩

end Recon

end Sys2Proof.Machine
end

section
/-! SUPPORT. The bit stream (spec/46_bitstream.md R221 to R227): the bits of a packed byte, a bit sequence as whole bytes and
a rest of less than a byte, what the writer puts out and holds back of the bits written to it, and what a flush emits. -/

namespace Sys2Proof.Machine

section Bytes

variable {x : List Bool} {i : Nat}

theorem bitsOfByte_length (b : Byte) : (bitsOfByte b).length = 8 := rfl

theorem getD_bitsOfByte (b : Byte) (hi : i < 8) : (bitsOfByte b).getD i false = b.getLsbD (7 - i) := by
  have hrange : bitsOfByte b = (List.range 8).map fun k => b.getLsbD (7 - k) := rfl
  simp [hrange, hi]

/-- Zeros behind a sequence read as what stands beyond its end. -/
theorem getD_append_zeros (x : List Bool) (n k : Nat) : (x ++ List.replicate n false).getD k false = x.getD k false := by
  by_cases h : k < x.length
  · exact List.getD_append _ _ _ _ h
  · rw [List.getD_append_right _ _ _ _ (not_lt.1 h), List.getD_eq_getElem?_getD, List.getElem?_getD_replicate_default_eq,
      List.getD_eq_default _ _ (not_lt.1 h)]

/-- The `i`-th bit of the sequence stands at bit `7 - i` of the packed byte, and the other bits are 0 (R226). -/
theorem getLsbD_packByte (hx : x.length ≤ 8) (hi : i < 8) : (packByte x).getLsbD i = x.getD (7 - i) false := by
  have hlen : (x ++ List.replicate (8 - x.length) false).length = 8 := by simp; omega
  rw [packByte, BitVec.getLsbD_ofNat, testBit_foldl, List.getD_eq_getElem?_getD, List.getElem?_reverse (by omega), hlen,
    show 8 - 1 - i = 7 - i by omega, ← List.getD_eq_getElem?_getD, getD_append_zeros, decide_eq_true hi, Bool.true_and]

theorem packByte_bitsOfByte (b : Byte) : packByte (bitsOfByte b) = b := by
  refine BitVec.eq_of_getLsbD_eq fun i hi => ?_
  rw [getLsbD_packByte (bitsOfByte_length b).le hi, getD_bitsOfByte b (by omega), show 7 - (7 - i) = i by omega]

theorem bitsOfByte_packByte (hx : x.length ≤ 8) :
    bitsOfByte (packByte x) = x ++ List.replicate (8 - x.length) false := by
  refine List.ext_getElem (by simp [bitsOfByte_length, hx]) fun i hi _ => ?_
  rw [bitsOfByte_length] at hi
  rw [← List.getD_eq_getElem _ false, getD_bitsOfByte _ hi, getLsbD_packByte hx (by omega),
    show 7 - (7 - i) = i by omega, ← List.getD_eq_getElem _ false, getD_append_zeros]

theorem bitsOfByte_packByte_whole (hx : x.length = 8) : bitsOfByte (packByte x) = x := by
  simp [bitsOfByte_packByte hx.le, hx]

theorem getD_concat (x : List Bool) (bit : Bool) (k : Nat) :
    (x ++ [bit]).getD k false = (x.getD k false || (bit && decide (k = x.length))) := by
  obtain h | rfl | h := lt_trichotomy k x.length
  · rw [List.getD_append _ _ _ _ h, decide_eq_false h.ne, Bool.and_false, Bool.or_false]
  · simp
  · rw [List.getD_eq_default _ _ (by simpa using h), List.getD_eq_default _ _ h.le, decide_eq_false h.ne', Bool.and_false,
      Bool.or_false]

/-- Setting the next bit from the top is packing one bit more (R221). -/
theorem packByte_concat {count : Fin 8} (hx : count.val = x.length) (bit : Bool) :
    (if bit then setBitFromTop (packByte x) count else packByte x) = packByte (x ++ [bit]) := by
  have hmask : ∀ k : Fin 8, ∀ i < 8, (0x80#8 >>> k.val).getLsbD i = decide (7 - i = k.val) := by decide
  have hlen : x.length < 8 := hx ▸ count.isLt
  refine BitVec.eq_of_getLsbD_eq fun i hi => ?_
  have hold := getLsbD_packByte hlen.le hi
  rw [getLsbD_packByte (by simpa using hlen) hi, getD_concat, ← hold, ← hx, ← hmask count i hi]
  cases bit
  · simp
  · simp [setBitFromTop]

end Bytes

section Packing

variable {x : List Bool}

theorem unpack_cons (b : Byte) (y : List Byte) : unpack (b :: y) = bitsOfByte b ++ unpack y := rfl

theorem unpack_length (y : List Byte) : (unpack y).length = 8 * y.length := by
  induction y with
  | nil => rfl
  | cons b y ih => simp [unpack_cons, bitsOfByte_length, ih]; omega

/-- A bit sequence is whole bytes and a rest of less than a byte. -/
theorem exists_unpack_append (x : List Bool) : ∃ y rest, rest.length < 8 ∧ x = unpack y ++ rest := by
  induction hn : x.length using Nat.strongRecOn generalizing x with
  | ind n ih =>
    by_cases hshort : x.length < 8
    · exact ⟨[], x, hshort, rfl⟩
    · have hbyte : bitsOfByte (packByte (x.take 8)) = x.take 8 :=
        bitsOfByte_packByte_whole (List.length_take_of_le (not_lt.1 hshort))
      obtain ⟨y, rest, hrest, hdrop⟩ := ih (x.drop 8).length (by simp; omega) (x.drop 8) rfl
      refine ⟨packByte (x.take 8) :: y, rest, hrest, ?_⟩
      rw [unpack_cons, hbyte, List.append_assoc, ← hdrop, List.take_append_drop]

@[simp] theorem pack_nil : pack [] = [] := rfl

theorem packFuel_nil (fuel : Nat) : packFuel fuel [] = [] := by cases fuel <;> rfl

theorem packFuel_cons (fuel : Nat) (bit : Bool) (x : List Bool) :
    packFuel (fuel + 1) (bit :: x) = packByte ((bit :: x).take 8) :: packFuel fuel ((bit :: x).drop 8) := rfl

theorem packFuel_succ {fuel : Nat} (h : x.length ≤ fuel) : packFuel (fuel + 1) x = packFuel fuel x := by
  induction fuel generalizing x with
  | zero => rw [List.length_eq_zero_iff.1 (Nat.le_zero.1 h), packFuel_nil, packFuel_nil]
  | succ fuel ih =>
    cases x with
    | nil => rw [packFuel_nil, packFuel_nil]
    | cons bit x =>
      rw [List.length_cons] at h
      rw [packFuel_cons, packFuel_cons, ih (by simp; omega)]

/-- Fuel beyond the sequence's length changes nothing. -/
theorem packFuel_eq_pack {fuel : Nat} (h : x.length ≤ fuel) : packFuel fuel x = pack x := by
  induction fuel, h using Nat.le_induction with
  | base => rfl
  | succ fuel h ih => exact (packFuel_succ h).trans ih

/-- The first eight bits make the first byte (R226). -/
theorem pack_of_ne_nil (h : x ≠ []) : pack x = packByte (x.take 8) :: pack (x.drop 8) := by
  cases x with
  | nil => contradiction
  | cons bit x => exact congrArg _ (packFuel_eq_pack (by simp))

theorem pack_short (hne : x ≠ []) (hlen : x.length ≤ 8) : pack x = [packByte x] := by
  rw [pack_of_ne_nil hne, List.take_of_length_le hlen, List.drop_of_length_le hlen, pack_nil]

/-- Whole bytes are packed as they are, and what follows them is packed on its own. -/
theorem pack_unpack_append (y : List Byte) (rest : List Bool) : pack (unpack y ++ rest) = y ++ pack rest := by
  induction y with
  | nil => rfl
  | cons b y ih =>
    rw [unpack_cons, List.append_assoc, pack_of_ne_nil (by simp [bitsOfByte]), List.take_left' (bitsOfByte_length b),
      List.drop_left' (bitsOfByte_length b), packByte_bitsOfByte, ih, List.cons_append]

theorem unpack_append (y z : List Byte) : unpack (y ++ z) = unpack y ++ unpack z := List.flatMap_append

theorem unpack_pack_short (h : x.length < 8) :
    unpack (pack x) = x ++ List.replicate (paddingBits x.length) false := by
  by_cases hne : x = []
  · subst hne
    rfl
  · have := List.length_pos_of_ne_nil hne
    have hpad : paddingBits x.length = 8 - x.length := by unfold paddingBits; omega
    rw [pack_short hne h.le, unpack_cons, bitsOfByte_packByte h.le, hpad]
    exact List.append_nil _

theorem pack_length_short (h : x.length < 8) : (pack x).length = (x.length + 7) / 8 := by
  by_cases hne : x = []
  · subst hne
    rfl
  · have := List.length_pos_of_ne_nil hne
    rw [pack_short hne h.le, List.length_singleton]
    omega

theorem unpack_pack (x : List Bool) : unpack (pack x) = x ++ List.replicate (paddingBits x.length) false := by
  obtain ⟨y, rest, hrest, rfl⟩ := exists_unpack_append x
  have hpad : paddingBits (unpack y ++ rest).length = paddingBits rest.length := by
    rw [List.length_append, unpack_length, paddingBits, paddingBits, Nat.mul_add_mod]
  rw [pack_unpack_append, unpack_append, unpack_pack_short hrest, hpad, List.append_assoc]

theorem pack_unpack (y : List Byte) : pack (unpack y) = y := by
  simpa using pack_unpack_append y []

theorem pack_length (x : List Bool) : (pack x).length = (x.length + 7) / 8 := by
  obtain ⟨y, rest, hrest, rfl⟩ := exists_unpack_append x
  rw [pack_unpack_append, List.length_append, pack_length_short hrest, List.length_append, unpack_length]
  omega

/-- Settles O25: a sequence is whole bytes, which are packed as they are, and a rest of less than a byte, which alone is
padded. -/
theorem packAndUnpackAgree : Obligations.PackAndUnpackAgree := ⟨unpack_pack, pack_unpack, pack_length⟩

end Packing

section Writer

variable {s : State} {held rest : List Bool}

/-- The writer holds back these bits, in the top of `ACC` (R40, R221). -/
structure Holds (held : List Bool) (s : State) : Prop where
  acc : s.acc = packByte held
  count : s.wcnt.val = held.length

/-- The state once the writer has put out the bytes `y`, counted them, and holds back `rest`. -/
def State.written (y : List Byte) (rest : List Bool) (s : State) : State :=
  { s with outq := s.outq ++ y, outBytes := s.outBytes + BitVec.ofNat 64 y.length, acc := packByte rest,
           wcnt := Fin.ofNat 8 rest.length }

theorem Holds.length_lt (h : Holds held s) : held.length < 8 := h.count ▸ s.wcnt.isLt

theorem Holds.eq_ofNat (h : Holds held s) : s.wcnt = Fin.ofNat 8 held.length :=
  Fin.ext (h.count.trans (Nat.mod_eq_of_lt h.length_lt).symm)

theorem holds_written (y : List Byte) (hrest : rest.length < 8) (s : State) : Holds rest (s.written y rest) :=
  ⟨rfl, Nat.mod_eq_of_lt hrest⟩

theorem Holds.written_nil (h : Holds held s) : s.written [] held = s := by
  rw [State.written, List.append_nil, List.length_nil, BitVec.add_zero, ← h.acc, ← h.eq_ofNat]

theorem written_written (y z : List Byte) (held rest : List Bool) (s : State) :
    (s.written y held).written z rest = s.written (y ++ z) rest := by
  simp [State.written, BitVec.ofNat_add, BitVec.add_assoc]

theorem putByte_room (b : Byte) (h : s.outBytes ≠ BitVec.allOnes 64) :
    putByte b s = .ok () { s with outq := s.outq ++ [b], outBytes := s.outBytes + 1#64 } :=
  putByte_eq_ok.2 ⟨h, rfl⟩

theorem putByte_full (b : Byte) (h : s.outBytes = BitVec.allOnes 64) : putByte b s = .raised .countOvf 0#32 s :=
  putByte_eq_raised.2 ⟨h, rfl, rfl, rfl⟩

theorem ne_allOnes_of_room {c : Count} {n : Nat} (h : c.toNat + n < 2 ^ 64) (hn : 0 < n) : c ≠ BitVec.allOnes 64 := by
  rintro rfl
  rw [BitVec.toNat_allOnes] at h
  omega

/-- A bit that does not fill the byte joins those held. -/
theorem writeBit_waits (h : Holds held s) (hlen : held.length < 7) (bit : Bool) :
    writeBit bit s = .ok () (s.written [] (held ++ [bit])) := by
  have hcount : s.wcnt ≠ 7 := fun h7 => hlen.ne (h.count.symm.trans (congrArg Fin.val h7))
  have hnext : s.wcnt + 1 = Fin.ofNat 8 (held ++ [bit]).length := by
    rw [h.eq_ofNat, List.length_append]
    exact Fin.ext (by simp [Fin.val_add])
  simp [writeBit, hcount, h.acc, packByte_concat h.count, hnext, State.written]

/-- The eighth bit sends the byte and empties the writer. -/
theorem writeBit_sends (h : Holds held s) (hlen : held.length = 7) (hroom : s.outBytes ≠ BitVec.allOnes 64) (bit : Bool) :
    writeBit bit s = .ok () (s.written [packByte (held ++ [bit])] []) := by
  have hcount : s.wcnt = 7 := Fin.ext (h.count.trans hlen)
  rw [writeBit, if_pos hcount, h.acc, packByte_concat h.count,
    putByte_room (s := { s with acc := packByte (held ++ [bit]) }) _ hroom]
  rfl

/-- Bits written go behind those held: the whole bytes are put out and the rest is held. -/
theorem forEach_writeBit (x : List Bool) (h : Holds held s)
    (hroom : s.outBytes.toNat + (held ++ x).length / 8 < 2 ^ 64) :
    ∃ y rest, rest.length < 8 ∧ held ++ x = unpack y ++ rest ∧ forEach writeBit x s = .ok () (s.written y rest) := by
  induction x generalizing held s with
  | nil => exact ⟨[], held, h.length_lt, by simp [unpack], by rw [forEach_nil, h.written_nil]⟩
  | cons bit x ih =>
    have hsplit : held ++ bit :: x = (held ++ [bit]) ++ x := by simp
    rw [hsplit] at hroom ⊢
    obtain hlen | hlen : held.length < 7 ∨ held.length = 7 := by have := h.length_lt; omega
    · have hnext : (held ++ [bit]).length < 8 := by rw [List.length_append, List.length_singleton]; omega
      obtain ⟨y, rest, hrest, hbits, hwrite⟩ := ih (holds_written [] hnext s) (by simpa [State.written] using hroom)
      refine ⟨y, rest, hrest, hbits, ?_⟩
      rw [forEach_cons, writeBit_waits h hlen, Res.andThen_ok, hwrite, written_written, List.nil_append]
    · have hwhole : (held ++ [bit]).length = 8 := by simp [hlen]
      rw [List.length_append, hwhole] at hroom
      have hfree : s.outBytes ≠ BitVec.allOnes 64 := ne_allOnes_of_room hroom (by omega)
      have hcounted : (s.outBytes + 1#64).toNat + x.length / 8 < 2 ^ 64 := by rw [count_succ hfree]; omega
      obtain ⟨y, rest, hrest, hbits, hwrite⟩ :=
        ih (holds_written [packByte (held ++ [bit])] (by decide : ([] : List Bool).length < 8) s) hcounted
      refine ⟨packByte (held ++ [bit]) :: y, rest, hrest, ?_, ?_⟩
      · rw [unpack_cons, bitsOfByte_packByte_whole hwhole, List.append_assoc _ _ rest, ← hbits, List.nil_append]
      · rw [forEach_cons, writeBit_sends h hlen hfree, Res.andThen_ok, hwrite, written_written, List.singleton_append]

theorem flush_empty (h : s.wcnt.val = 0) : flush s = .ok () s := by
  rw [flush, if_neg (by omega)]

theorem flush_room (h : 0 < s.wcnt.val) (hroom : s.outBytes ≠ BitVec.allOnes 64) :
    flush s = .ok () { s with outq := s.outq ++ [s.acc], outBytes := s.outBytes + 1#64, acc := 0#8, wcnt := 0 } := by
  rw [flush, if_pos h, putByte_room _ hroom]
  rfl

theorem flush_full (h : 0 < s.wcnt.val) (hfull : s.outBytes = BitVec.allOnes 64) :
    flush s = .raised .countOvf 0#32 s := by
  rw [flush, if_pos h, putByte_full _ hfull, Res.andThen_raised]

/-- A flush puts out the held bits, packed, and empties the writer. -/
theorem flush_holds (h : Holds held s) (hroom : s.outBytes.toNat + (pack held).length < 2 ^ 64) :
    flush s = .ok () (s.written (pack held) []) := by
  by_cases hne : held = []
  · subst hne
    rw [flush_empty h.count, pack_nil, h.written_nil]
  · have hpack := pack_short hne h.length_lt.le
    rw [hpack] at hroom ⊢
    rw [flush_room (h.count ▸ List.length_pos_of_ne_nil hne) (ne_allOnes_of_room hroom Nat.one_pos), h.acc]
    rfl

/-- Settles O26: the bits written leave their whole bytes in `OUTQ` and the rest in the writer (`forEach_writeBit`), which
the flush packs (`flush_holds`); the two together are the packed sequence. -/
theorem writerEmitsThePackedBits : Obligations.WriterEmitsThePackedBits := by
  intro s x hacc hcount hroom
  have hempty : Holds [] s := ⟨hacc, congrArg Fin.val hcount⟩
  have hlen := pack_length x
  obtain ⟨y, rest, hrest, hbits, hwrite⟩ := forEach_writeBit x hempty (by simp only [List.nil_append]; omega)
  have hpack : pack x = y ++ pack rest := by rw [← pack_unpack_append, ← hbits, List.nil_append]
  have hflush : flush (s.written y rest) = .ok () (s.written (pack x) []) := by
    rw [flush_holds (holds_written y hrest s), written_written, hpack]
    rw [hpack, List.length_append] at hroom
    have : (s.written y rest).outBytes.toNat ≤ s.outBytes.toNat + y.length := by
      simp only [State.written, BitVec.toNat_add, BitVec.toNat_ofNat]
      omega
    omega
  rw [hwrite, Res.andThen_ok, hflush]
  simp [State.written, hacc, hcount, packByte]

end Writer

section CompressEnd

variable {s t : State} {q : List Item}

theorem exec_compress_ends (hp : s.phase = .run) (hq : s.inq = .eos :: q) (h : flush { s with inq := q } = .ok () t) :
    exec .compress s = .next (t.setBusy false) :=
  (streamStep_eos hp hq).trans (congrArg (stepEnd fun t => t.setBusy false) h)

theorem exec_compress_end_faults {e : ErrCode} {w : Word} (hp : s.phase = .run) (hq : s.inq = .eos :: q)
    (h : flush { s with inq := q } = .raised e w t) : exec .compress s = .next (takeFault e w t) :=
  (streamStep_eos hp hq).trans (congrArg (stepEnd fun t => t.setBusy false) h)

/-- Settles O29: the end rule is `flush`, which has an equation for each of the three cases. -/
theorem compressEndsWithAFlush : Obligations.CompressEndsWithAFlush := by
  intro s q hp hq
  refine ⟨fun hheld hroom => ?_, fun hheld hfull => ?_, fun hheld => ?_⟩
  · exact exec_compress_ends hp hq (flush_room hheld hroom)
  · exact exec_compress_end_faults hp hq (flush_full hheld hfull)
  · exact exec_compress_ends hp hq (flush_empty hheld)

end CompressEnd

end Sys2Proof.Machine
end

section
/-! SUPPORT. The compressor's byte rule (spec/47_compress.md R242 to R245): the writer's held bits read off `ACC` and `WCNT`,
what a symbol's code leaves in the writer with and without room in `OUT_BYTES`, and what a run of byte items emits and counts. -/

namespace Sys2Proof.Machine

section Held

variable {s : State} {held x rest : List Bool} {y : List Byte} {b : Byte} {m : Nat}

theorem mod_two_pow_eq_zero_iff : b.toNat % 2 ^ m = 0 ↔ ∀ i < m, b.getLsbD i = false := by
  have hbit (i : Nat) : (b.toNat % 2 ^ m).testBit i = (decide (i < m) && b.getLsbD i) := Nat.testBit_mod_two_pow ..
  refine ⟨fun h i hi => ?_, fun h => Nat.eq_of_testBit_eq fun i => ?_⟩
  · simpa [h, hi] using (hbit i).symm
  · by_cases hi : i < m
    · simp [hbit, h i hi]
    · simp [hbit, hi]

/-- The bits held are the top `WCNT` bits of `ACC`, where the rest of `ACC` is 0 (R40). -/
theorem holds_iff : Holds held s ↔ (bitsOfByte s.acc).take s.wcnt.val = held ∧ s.acc.toNat % 2 ^ (8 - s.wcnt.val) = 0 := by
  rw [mod_two_pow_eq_zero_iff]
  constructor
  · intro h
    have hlen := h.length_lt
    rw [h.count, h.acc, bitsOfByte_packByte hlen.le]
    refine ⟨List.take_left, fun i hi => ?_⟩
    rw [getLsbD_packByte hlen.le (by omega), List.getD_eq_default _ _ (by omega)]
  · rintro ⟨rfl, hzero⟩
    have hlen : ((bitsOfByte s.acc).take s.wcnt.val).length = s.wcnt.val :=
      List.length_take_of_le s.wcnt.isLt.le
    refine ⟨BitVec.eq_of_getLsbD_eq fun i hi => ?_, hlen.symm⟩
    rw [getLsbD_packByte (hlen.trans_le s.wcnt.isLt.le) hi]
    by_cases htop : 7 - i < s.wcnt.val
    · rw [List.getD_eq_getElem?_getD, List.getElem?_take_of_lt htop, ← List.getD_eq_getElem?_getD,
        getD_bitsOfByte _ (by omega), show 7 - (7 - i) = i by omega]
    · rw [List.getD_eq_default _ _ (by omega), hzero i (by omega)]

/-- Cut behind its whole bytes `y`, a sequence has a front that packs to them and leaves the rest. -/
theorem pack_take_and_drop (y : List Byte) (rest : List Bool) :
    pack ((unpack y ++ rest).take (8 * y.length)) = y ∧ (unpack y ++ rest).drop (8 * y.length) = rest := by
  rw [List.take_left' (unpack_length y), List.drop_left' (unpack_length y)]
  exact ⟨pack_unpack y, rfl⟩

theorem length_unpack_append (hrest : rest.length < 8) : (unpack y ++ rest).length / 8 = y.length := by
  rw [List.length_append, unpack_length]
  omega

/-- The eighth bit with `OUT_BYTES` full: the byte stays in `ACC` (R311). -/
theorem writeBit_full (h : Holds held s) (hlen : held.length = 7) (hfull : s.outBytes = BitVec.allOnes 64) (bit : Bool) :
    writeBit bit s = .raised .countOvf 0#32 { s with acc := packByte (held ++ [bit]) } := by
  have hcount : s.wcnt = 7 := Fin.ext (h.count.trans hlen)
  rw [writeBit, if_pos hcount, h.acc, packByte_concat h.count,
    putByte_full (s := { s with acc := packByte (held ++ [bit]) }) _ hfull, Res.andThen_raised]

/-- Where `OUT_BYTES` has room for `room` bytes only, these are put out and the bit that fills the next one faults. -/
theorem forEach_writeBit_full {room : Nat} (h : Holds held s) (hroom : s.outBytes.toNat + room = 2 ^ 64 - 1)
    (hx : room < (held ++ x).length / 8) :
    ∃ y rest bit after, y.length = room ∧ rest.length = 7 ∧ held ++ x = unpack y ++ (rest ++ bit :: after) ∧
      forEach writeBit x s = .raised .countOvf 0#32
        { s with outq := s.outq ++ y, outBytes := BitVec.allOnes 64, acc := packByte (rest ++ [bit]), wcnt := 7 } := by
  have hheld := h.length_lt
  obtain ⟨before, bit, after, rfl, hbefore⟩ :
      ∃ before bit after, x = before ++ bit :: after ∧ (held ++ before).length = 8 * room + 7 := by
    rw [List.length_append] at hx
    obtain ⟨k, hk⟩ : ∃ k, held.length + k = 8 * room + 7 := ⟨8 * room + 7 - held.length, by omega⟩
    have hlt : k < x.length := by omega
    refine ⟨x.take k, x[k], x.drop (k + 1), ?_, ?_⟩
    · rw [List.getElem_cons_drop, List.take_append_drop]
    · rw [List.length_append, List.length_take_of_le hlt.le, hk]
  obtain ⟨y, rest, hrest, hbits, hwrite⟩ := forEach_writeBit before h (by omega)
  have hlen : 8 * y.length + rest.length = 8 * room + 7 := by
    rw [← hbefore, hbits, List.length_append, unpack_length]
  have hfull : (s.written y rest).outBytes = BitVec.allOnes 64 := by
    have hsum : s.outBytes.toNat + y.length = 2 ^ 64 - 1 := by omega
    refine BitVec.eq_of_toNat_eq ?_
    rw [State.written, BitVec.toNat_add, BitVec.toNat_ofNat, Nat.add_mod_mod, hsum]
    rfl
  have hseven : rest.length = 7 := by omega
  have hcount : Fin.ofNat 8 rest.length = 7 := by rw [hseven]; rfl
  refine ⟨y, rest, bit, after, by omega, hseven, ?_, ?_⟩
  · rw [← List.append_assoc, hbits, List.append_assoc]
  · rw [forEach_append, hwrite, Res.andThen_ok, forEach_cons, writeBit_full (holds_written y hrest s) hseven hfull,
      Res.andThen_raised, ← hfull, ← hcount]
    rfl

end Held

section ByteRule

variable {s t : State} {b : Byte} {q : List Item}

theorem codeOfByte_nonAscii (table : Vector Code 128) (hb : 128 ≤ b.toNat) : codeOfByte table b = [] := by
  rw [codeOfByte, symbolOf_eq_none.2 hb]

theorem compressByte_full (hin : s.inBytes = BitVec.allOnes 64) : compressByte b s = .raised .countOvf 0#32 s := if_pos hin

theorem compressByte_nonAscii (hin : s.inBytes ≠ BitVec.allOnes 64) (hb : 128 ≤ b.toNat) :
    compressByte b s = .ok () { s with inBytes := s.inBytes + 1#64 }.noteNonAscii := by
  simp only [compressByte, if_neg hin, symbolOf_eq_none.2 hb]

theorem compressByte_symbol (hin : s.inBytes ≠ BitVec.allOnes 64) (hb : b.toNat < 128) :
    compressByte b s = forEach writeBit (codeOfByte s.ct b) { s with inBytes := s.inBytes + 1#64 } := by
  have hc : symbolOf b = some ⟨b.toNat, hb⟩ := symbolOf_eq_some.2 rfl
  simp only [compressByte, if_neg hin, codeOfByte, hc, State.codeAt]

theorem exec_compress_start (hp : s.phase = .start) (htree : s.treeValid = true) (htable : s.tableValid = true) :
    exec .compress s = .next { s with acc := 0#8, wcnt := 0, inBytes := 0#64, outBytes := 0#64, nonascii := 0#64,
                                      warn := false, phase := .run } := by
  have hstart : compressStart s = .ok () { s.clearWriter with inBytes := 0#64, outBytes := 0#64 }.clearWarning := by
    simp [compressStart, htree, htable]
  exact (streamStep_start hp).trans (congrArg (stepEnd _) hstart)

theorem exec_compress_reads (hp : s.phase = .run) (hq : s.inq = .byte b :: q)
    (h : compressByte b { s with inq := q } = .ok () t) : exec .compress s = .next t :=
  (streamStep_byte hp hq).trans (congrArg (stepEnd id) h)

theorem exec_compress_faults {e : ErrCode} {w : Word} (hp : s.phase = .run) (hq : s.inq = .byte b :: q)
    (h : compressByte b { s with inq := q } = .raised e w t) : exec .compress s = .next (takeFault e w t) :=
  (streamStep_byte hp hq).trans (congrArg (stepEnd id) h)

/-- Settles O27: the start rule is `exec_compress_start`, and `compressByte` has an equation for each of the three bytes. -/
theorem compressStartAndSilentBytes : Obligations.CompressStartAndSilentBytes := by
  refine ⟨fun s => exec_compress_start, fun s b q hp hq => ⟨fun hin => ?_, fun hin hb => ?_, fun hin hb hcode => ?_⟩⟩
  · exact exec_compress_faults hp hq (compressByte_full hin)
  · exact exec_compress_reads hp hq (compressByte_nonAscii hin hb)
  · have hbyte := compressByte_symbol (s := { s with inq := q }) hin hb
    exact exec_compress_reads hp hq (hbyte.trans (congrArg (forEach writeBit · _) hcode))

/-- Settles O28: the bits held are read off `ACC` and `WCNT` by `holds_iff`, and the code is written behind them by
`forEach_writeBit` where there is room and by `forEach_writeBit_full` where there is not. -/
theorem compressAppendsTheCode : Obligations.CompressAppendsTheCode := by
  intro s b q hp hq hb hin hclear
  have hheld : Holds ((bitsOfByte s.acc).take s.wcnt.val) { s with inq := q, inBytes := s.inBytes + 1#64 } :=
    holds_iff.2 ⟨rfl, hclear⟩
  have hcode := compressByte_symbol (s := { s with inq := q }) hin hb
  have hout := s.outBytes.isLt
  refine ⟨fun hroom => ?_, fun hroom => ?_⟩
  · obtain ⟨y, rest, hrest, hbits, hwrite⟩ := forEach_writeBit (codeOfByte s.ct b) hheld
      (by change s.outBytes.toNat + _ < _; omega)
    obtain ⟨hheld', hclear'⟩ := holds_iff.1 (holds_written y hrest { s with inq := q, inBytes := s.inBytes + 1#64 })
    obtain ⟨htake, hdrop⟩ := pack_take_and_drop y rest
    rw [hbits, length_unpack_append hrest, htake, hdrop]
    exact ⟨_, exec_compress_reads hp hq (hcode.trans hwrite), rfl, rfl, hheld', hclear', rfl⟩
  · obtain ⟨y, rest, bit, after, hy, hrest, hbits, hwrite⟩ :=
      forEach_writeBit_full (room := 2 ^ 64 - 1 - s.outBytes.toNat) hheld
        (by change s.outBytes.toNat + _ = _; omega) hroom
    obtain ⟨htake, hdrop⟩ := pack_take_and_drop y (rest ++ bit :: after)
    have hnext : (rest ++ bit :: after).take 8 = rest ++ [bit] := by
      rw [List.append_cons, List.take_left' (by simp [hrest])]
    rw [hbits, ← hy, htake, hdrop, hnext]
    exact exec_compress_faults hp hq (hcode.trans hwrite)

end ByteRule

section Stream

variable {s t : State} {bs y : List Byte} {q : List Item} {held rest : List Bool}

/-- The state once the bytes `bs` are taken, with `q` left in `INQ`, and counted: all of them, and apart from that those
that are no symbol (R243). -/
def State.counted (bs : List Byte) (q : List Item) (s : State) : State :=
  { s with inq := q, inBytes := s.inBytes + BitVec.ofNat 64 bs.length,
           nonascii := s.nonascii + BitVec.ofNat 64 (nonSymbols bs), warn := s.warn || bs.any fun b => 128 ≤ b.toNat }

/-- `COMPRESS` is between its steps and no turn is scheduled. -/
structure Compressing (s : State) : Prop where
  busy : s.busy = true
  phase : s.phase = .run
  command : decode s.cmdr = .ok .compress
  sched : s.sched = []

theorem Compressing.step_eq (h : Compressing s) (hq : s.inq ≠ []) : step s = exec .compress s :=
  step_command h.sched (by simp [State.engineEnabled, h.busy, hq]) h.command

theorem Compressing.counted_written (h : Compressing s) : Compressing ((s.counted bs q).written y rest) :=
  ⟨h.busy, h.phase, h.command, h.sched⟩

theorem ct_counted_written : ((s.counted bs q).written y rest).ct = s.ct := rfl

theorem counted_nil (hq : s.inq = q) : s.counted [] q = s := by
  subst hq
  simp [State.counted, nonSymbols]

theorem counted_written_counted (xs ys : List Byte) (p : List Item) :
    ((s.counted xs p).written y rest).counted ys q = (s.counted (xs ++ ys) q).written y rest := by
  simp [State.counted, State.written, nonSymbols_append, BitVec.ofNat_add, BitVec.add_assoc, Bool.or_assoc]

theorem outBytes_written_le : (s.written y rest).outBytes.toNat ≤ s.outBytes.toNat + y.length := by
  simp only [State.written, BitVec.toNat_add, BitVec.toNat_ofNat]
  omega

/-- A byte with room for it is counted, and its code goes behind the bits held. -/
theorem compressByte_emits {b : Byte} (h : Holds held s) (hin : s.inBytes ≠ BitVec.allOnes 64)
    (hroom : s.outBytes.toNat + (held ++ codeOfByte s.ct b).length / 8 < 2 ^ 64) :
    ∃ y rest, rest.length < 8 ∧ held ++ codeOfByte s.ct b = unpack y ++ rest ∧
      compressByte b { s with inq := q } = .ok () ((s.counted [b] q).written y rest) := by
  have hheld : Holds held (s.counted [b] q) := ⟨h.acc, h.count⟩
  obtain hb | hb := Nat.lt_or_ge b.toNat 128
  · have hcounted : s.counted [b] q = { s with inq := q, inBytes := s.inBytes + 1#64 } := by
      simp [State.counted, nonSymbols, not_le.2 hb]
    obtain ⟨y, rest, hrest, hbits, hwrite⟩ := forEach_writeBit (codeOfByte s.ct b) hheld hroom
    rw [hcounted] at hwrite ⊢
    exact ⟨y, rest, hrest, hbits, (compressByte_symbol (s := { s with inq := q }) hin hb).trans hwrite⟩
  · have hcounted : s.counted [b] q = { s with inq := q, inBytes := s.inBytes + 1#64 }.noteNonAscii := by
      simp [State.counted, State.noteNonAscii, nonSymbols, hb]
    refine ⟨[], held, h.length_lt, by rw [codeOfByte_nonAscii _ hb, List.append_nil]; rfl, ?_⟩
    rw [hheld.written_nil, hcounted]
    exact compressByte_nonAscii hin hb

/-- As many events as there are bytes count them and put out the whole bytes of their codes, by induction on the bytes. -/
theorem Compressing.run_emits (h : Compressing s) (hh : Holds held s) (hq : s.inq = bs.map Item.byte ++ q)
    (hin : s.inBytes.toNat + bs.length < 2 ^ 64)
    (hroom : s.outBytes.toNat + (held ++ bs.flatMap (codeOfByte s.ct)).length / 8 < 2 ^ 64) :
    ∃ y rest, rest.length < 8 ∧ held ++ bs.flatMap (codeOfByte s.ct) = unpack y ++ rest ∧
      Sys2Proof.core.run bs.length s = .next ((s.counted bs q).written y rest) := by
  induction bs generalizing s held with
  | nil =>
    have hsame : s.counted [] q = s := counted_nil hq
    exact ⟨[], held, hh.length_lt, by simp [unpack], by rw [hsame, hh.written_nil]; rfl⟩
  | cons b bs ih =>
    rw [List.flatMap_cons, ← List.append_assoc, List.length_append] at hroom
    rw [List.length_cons] at hin
    obtain ⟨hne, hsucc⟩ := add_one_of_lt (x := s.inBytes) (by omega)
    obtain ⟨y, rest, hrest, hbits, hbyte⟩ :=
      compressByte_emits (b := b) (q := bs.map Item.byte ++ q) hh hne (by omega)
    have hstep := (h.step_eq (by simp [hq])).trans (exec_compress_reads h.phase hq hbyte)
    have hcounted : ((s.counted [b] (bs.map Item.byte ++ q)).written y rest).inBytes.toNat = s.inBytes.toNat + 1 := hsucc
    have hsent : ((s.counted [b] (bs.map Item.byte ++ q)).written y rest).outBytes.toNat ≤ s.outBytes.toNat + y.length :=
      outBytes_written_le
    rw [hbits, List.length_append, unpack_length] at hroom
    obtain ⟨y', rest', hrest', hbits', hrun⟩ := ih (h.counted_written (bs := [b]) (y := y) (rest := rest))
      (holds_written y hrest _) rfl (by omega) (by rw [ct_counted_written, List.length_append]; omega)
    refine ⟨y ++ y', rest', hrest', ?_, ?_⟩
    · rw [List.flatMap_cons, ← List.append_assoc, hbits, List.append_assoc, ← ct_counted_written, hbits', unpack_append,
        List.append_assoc]
    · rw [List.length_cons, run_succ hstep, hrun, counted_written_counted, written_written, List.singleton_append]

/-- After the whole bytes `y` a flush puts out the bits held back, packed: in all, the packed sequence. -/
theorem flush_written (hrest : rest.length < 8) (hroom : s.outBytes.toNat + (pack (unpack y ++ rest)).length < 2 ^ 64) :
    flush (s.written y rest) = .ok () (s.written (pack (unpack y ++ rest)) []) := by
  have hsent := outBytes_written_le (s := s) (y := y) (rest := rest)
  rw [pack_unpack_append] at hroom ⊢
  rw [List.length_append] at hroom
  rw [flush_holds (holds_written y hrest s) (by omega), written_written]

/-- From an empty writer, the bytes and `eos` put out the packed codes and end the command. -/
theorem Compressing.run_packs (h : Compressing s) (hh : Holds [] s) (hq : s.inq = bs.map Item.byte ++ .eos :: q)
    (hin : s.inBytes.toNat + bs.length < 2 ^ 64)
    (hroom : s.outBytes.toNat + (pack (bs.flatMap (codeOfByte s.ct))).length < 2 ^ 64) :
    Sys2Proof.core.run (bs.length + 1) s =
      .next (((s.counted bs q).written (pack (bs.flatMap (codeOfByte s.ct))) []).setBusy false) := by
  have hlen := pack_length (bs.flatMap (codeOfByte s.ct))
  obtain ⟨y, rest, hrest, hbits, hrun⟩ := h.run_emits hh hq hin (by rw [List.nil_append]; omega)
  rw [List.nil_append] at hbits
  rw [hbits] at hroom ⊢
  have hend := h.counted_written (bs := bs) (q := .eos :: q) (y := y) (rest := rest)
  have hflush := flush_written (s := s.counted bs q) hrest hroom
  exact (run_add hrun).trans (run_succ ((hend.step_eq (List.cons_ne_nil _ _)).trans
    (exec_compress_ends hend.phase rfl hflush)))

/-- Settles O30: the start rule empties the writer and the counters, and from there the bytes and `eos` put out the packed
codes (`Compressing.run_packs`). -/
theorem compressPacksTheCodes : Obligations.CompressPacksTheCodes := by
  rintro s bs rest ⟨hbusy, hphase, hcmdr, hsched⟩ htree htable hq hin hout
  have hd : decode s.cmdr = .ok .compress := hcmdr ▸ decode_encode .compress
  have hstart := (step_command hsched (by simp [State.engineEnabled, hbusy, hphase]) hd).trans
    (exec_compress_start hphase htree htable)
  have hrun : Compressing { s with acc := 0#8, wcnt := 0, inBytes := 0#64, outBytes := 0#64, nonascii := 0#64,
                                   warn := false, phase := .run } := ⟨hbusy, rfl, hd, hsched⟩
  have hpacks := hrun.run_packs ⟨rfl, rfl⟩ hq ((Nat.zero_add _).trans_lt hin) ((Nat.zero_add _).trans_lt hout)
  refine (run_succ hstart).trans (hpacks.trans ?_)
  simp [State.counted, State.written, State.setBusy, nonSymbols, packByte]

end Stream

end Sys2Proof.Machine
end

section
/-! SUPPORT. The host's two statistics (spec/47_compress.md R246, R247): `round5` takes a neighbouring multiple of 10^-5,
whichever it is. -/

namespace Sys2Proof.Machine

section Rounding

variable {q : Rat}

/-- A multiple of 10^-5 whose neighbours on both sides are beyond the number is less than 10^-5 away from it. -/
theorem abs_div_sub_lt {z : Int} (hlo : (z : Rat) - 1 < q * 100000) (hhi : q * 100000 < z + 1) :
    |(z : Rat) / 100000 - q| < 1 / 100000 := by
  rw [abs_lt]
  constructor <;> linarith

/-- What `round5` can do (R247): nothing to a multiple of 10^-5, and else it takes the multiple below or the one above. -/
theorem round5_cases (q : Rat) :
    (((q * 100000).floor : Rat) = q * 100000 ∧ round5 q = q) ∨
    (((q * 100000).floor : Rat) ≠ q * 100000 ∧
      ∃ z, (z = (q * 100000).floor ∨ z = (q * 100000).floor + 1) ∧ round5 q = (z : Rat) / 100000) := by
  unfold round5
  split
  · next h => exact .inl ⟨h, rfl⟩
  · next h =>
    split
    · exact .inr ⟨h, _, .inr rfl, rfl⟩
    · exact .inr ⟨h, _, .inl rfl, rfl⟩

theorem floor_eq_of_multiple {z : Int} (h : q = (z : Rat) / 100000) : ((q * 100000).floor : Rat) = q * 100000 := by
  rw [h, div_mul_cancel₀ _ (by norm_num), Rat.floor_intCast]

/-- Settles O59: the two cases of `round5_cases`; the multiple taken, below or above, is a neighbour. -/
theorem roundFiveMeetsItsLaw : Obligations.RoundFiveMeetsItsLaw := by
  intro q
  have hle : ((q * 100000).floor : Rat) ≤ q * 100000 := Int.floor_le (q * 100000)
  have hlt : q * 100000 < ((q * 100000).floor : Rat) + 1 := Int.lt_floor_add_one (q * 100000)
  obtain ⟨hmul, hround⟩ | ⟨hnot, z, hz, hround⟩ := round5_cases q
  · rw [hround]
    refine ⟨⟨_, (eq_div_iff (by norm_num)).2 hmul.symm⟩, by simp, fun _ _ => rfl⟩
  · rw [hround]
    refine ⟨⟨z, rfl⟩, ?_, fun z' h => absurd (floor_eq_of_multiple h) hnot⟩
    have hbelow := lt_of_le_of_ne hle hnot
    obtain rfl | rfl := hz
    · exact abs_div_sub_lt (by linarith) hlt
    · exact abs_div_sub_lt (by push_cast; linarith) (by push_cast; linarith)

/-- Settles O60: each ratio is guarded by its divisor's test. -/
theorem ratiosAreGuarded : Obligations.RatiosAreGuarded :=
  fun _ _ => ⟨fun ho => if_pos ho, fun hi => if_pos hi, fun ho => if_neg ho, fun hi => if_neg hi⟩

end Rounding

end Sys2Proof.Machine
end

section
/-! SUPPORT. How a command ends in the step it is in (spec/49_system.md R280 to R282, spec/60_exceptions.md R303, R310 to
R313, spec/70_reset_and_hazards.md R340 to R342): the raise of each kind of rule, the missing precondition of each command,
the three system commands, and the three ways to the reset state. -/

namespace Sys2Proof.Machine

section Raises

variable {startRule endRule : State → Res Unit} {byteRule : Byte → State → Res Unit} {s u : State} {q : List Item}
  {b : Byte} {e : ErrCode} {w : Word}

theorem streamStep_start_raised (hp : s.phase = .start) (h : startRule s = .raised e w u) :
    streamStep startRule byteRule endRule s = .next (takeFault e w u) :=
  (streamStep_start hp).trans (congrArg (stepEnd _) h)

theorem streamStep_byte_raised (hp : s.phase = .run) (hq : s.inq = .byte b :: q)
    (h : byteRule b { s with inq := q } = .raised e w u) :
    streamStep startRule byteRule endRule s = .next (takeFault e w u) :=
  (streamStep_byte hp hq).trans (congrArg (stepEnd _) h)

theorem streamStep_eos_raised (hp : s.phase = .run) (hq : s.inq = .eos :: q)
    (h : endRule { s with inq := q } = .raised e w u) :
    streamStep startRule byteRule endRule s = .next (takeFault e w u) :=
  (streamStep_eos hp hq).trans (congrArg (stepEnd _) h)

/-- Settles O35: a raise passes through the statements after it (`Res.andThen_eq_raised`), and each kind of rule has a lemma
that says the step then takes the fault. -/
theorem raiseEndsTheCommand : Obligations.RaiseEndsTheCommand := by
  refine ⟨fun first later s e info u h => ?_, fun startRule byteRule endRule s e info u => ?_⟩
  · exact wholeStep_raised (Res.andThen_eq_raised.2 (.inl h))
  · exact ⟨streamStep_start_raised, fun b q => streamStep_byte_raised, fun q => streamStep_eos_raised⟩

end Raises

section Preconditions

variable {s : State}

theorem genRule_noTree (h : s.treeValid = false) : genRule s = .raised .missingTree 0#32 s := if_pos h

theorem reconRule_noTable (h : s.tableValid = false) : reconRule s = .raised .missingTable 0#32 s := if_pos h

theorem compressStart_noTree (h : s.treeValid = false) : compressStart s = .raised .missingTree 0#32 s := if_pos h

theorem compressStart_noTable (htree : s.treeValid = true) (h : s.tableValid = false) :
    compressStart s = .raised .missingTable 0#32 s := by
  simp [compressStart, htree, h]

theorem decompressStart_noTree (h : s.treeValid = false) : decompressStart s = .raised .missingTree 0#32 s := if_pos h

theorem hmergeRule_few (h : s.hn < 2) : hmergeRule s = .raised .heapEmpty (BitVec.ofNat 32 s.hn) s := if_pos h

theorem htakeRule_empty (h : s.hn = 0) : htakeRule s = .raised .heapEmpty 0#32 s := if_pos h

theorem htakeRule_many (h : 1 < s.hn) : htakeRule s = .raised .buildIncomplete (BitVec.ofNat 32 s.hn) s := by
  rw [htakeRule, if_neg (by omega), if_pos h]

/-- Settles O34: each rule without what it needs raises in the state it began in, so its step only takes the fault. -/
theorem preconditionsAreTestedFirst : Obligations.PreconditionsAreTestedFirst := by
  refine fun s => ⟨fun h => ?gen, fun h => ?recon, fun h => ?hidump, fun hp h => ?compressTree,
    fun hp ht h => ?compressTable, fun hp h => ?decompress, fun h => ?hmerge, fun h => ?htakeEmpty, fun h => ?htakeMany⟩
  case gen => exact wholeStep_raised (genRule_noTree h)
  case recon => exact wholeStep_raised (reconRule_noTable h)
  case hidump => exact wholeStep_raised (hidumpRule_invalid h)
  case compressTree => exact streamStep_start_raised hp (compressStart_noTree h)
  case compressTable => exact streamStep_start_raised hp (compressStart_noTable ht h)
  case decompress => exact streamStep_start_raised hp (decompressStart_noTree h)
  case hmerge => exact wholeStep_raised (hmergeRule_few h)
  case htakeEmpty => exact wholeStep_raised (htakeRule_empty h)
  case htakeMany => exact wholeStep_raised (htakeRule_many h)

end Preconditions

section System

/-- Settles O1: the rule of `NOP` does nothing, and its step then clears `BUSY` (`wholeStep_ok`). -/
theorem nopOnlyEndsItself : Obligations.NopOnlyEndsItself :=
  fun s => wholeStep_ok (rule := fun t => .ok () t) (s := s) rfl

/-- Settles O2: the rule of `CLRERR` is `acknowledgeFault`, and its step then clears `BUSY` (`wholeStep_ok`). -/
theorem clrerrAcknowledgesTheFault : Obligations.ClrerrAcknowledgesTheFault :=
  fun s => wholeStep_ok (rule := fun t => .ok () (acknowledgeFault t)) (s := s) rfl

/-- `BUSY` is 0 in the reset state already, so clearing it is no further change. -/
theorem exec_srst (s : State) : exec .srst s = .next (resetEngine s) :=
  wholeStep_ok (rule := fun t => .ok () (resetEngine t)) (s := s) rfl

theorem step_reset {rest : List Turn} (h : s.sched = .reset :: rest) :
    step s = .next (resetEngine { s with sched := rest }) := by
  simp [step, h]

theorem engineOnly_resetEngine (s : State) : engineOnly (resetEngine s) = State.reset := rfl

/-- Settles O4: the engine step, the write and the reset event each leave `resetEngine` of a state. -/
theorem everyResetLeavesTheResetState : Obligations.EveryResetLeavesTheResetState := by
  refine fun s => ⟨⟨_, exec_srst s, engineOnly_resetEngine _⟩, ⟨resetEngine s, ?_, engineOnly_resetEngine _⟩,
    fun rest h => ⟨_, step_reset h, engineOnly_resetEngine _⟩⟩
  rw [memWrite_cmd, writeCmd_srst]

end System

end Sys2Proof.Machine
end

section
/-! SUPPORT. The decompressor (spec/48_decompress.md R261 to R264): the reader gives a byte's bits in order and the byte rule
is the walk `decodeBits` over them, a run of byte items is the walk over their bits, the walk over a code emits its symbol,
and the walk over zero bits follows the left chain. -/

namespace Sys2Proof.Machine

section Walk

variable {arena : List Node} {root cur n : NodeIdx} {bit : Bool} {xs ys : List Bool} {out : List Byte} {nd : Node}

@[simp] theorem decodeBits_nil : decodeBits arena root cur [] = some ([], cur) := rfl

theorem decodeBits_inner {nd' : Node} (hcur : nodeAt arena cur = some nd) (hc : nd.child bit = some n)
    (hn : nodeAt arena n = some nd') (hleaf : nd'.isLeaf = false) :
    decodeBits arena root cur (bit :: xs) = decodeBits arena root n xs := by
  simp [decodeBits, hcur, hc, hn, hleaf]

theorem decodeBits_leaf {nd' : Node} (hcur : nodeAt arena cur = some nd) (hc : nd.child bit = some n)
    (hn : nodeAt arena n = some nd') (hleaf : nd'.isLeaf = true) :
    decodeBits arena root cur (bit :: xs) = (decodeBits arena root root xs).map fun r => (nd'.sym :: r.1, r.2) := by
  simp [decodeBits, hcur, hc, hn, hleaf]

/-- A walk's first step goes to a child, which is a leaf, whose byte is emitted, or is not. -/
theorem decodeBits_cons_cases (h : decodeBits arena root cur (bit :: xs) = some (out, n)) :
    ∃ nd c nd', nodeAt arena cur = some nd ∧ nd.child bit = some c ∧ nodeAt arena c = some nd' ∧
      ((nd'.isLeaf = false ∧ decodeBits arena root c xs = some (out, n)) ∨
        (nd'.isLeaf = true ∧ ∃ out', decodeBits arena root root xs = some (out', n) ∧ out = nd'.sym :: out')) := by
  cases hcur : nodeAt arena cur with
  | none => simp [decodeBits, hcur] at h
  | some nd =>
    cases hc : nd.child bit with
    | none => simp [decodeBits, hcur, hc] at h
    | some c =>
      cases hn : nodeAt arena c with
      | none => simp [decodeBits, hcur, hc, hn] at h
      | some nd' =>
        refine ⟨nd, c, nd', rfl, hc, hn, ?_⟩
        cases hleaf : nd'.isLeaf with
        | false => exact .inl ⟨rfl, decodeBits_inner hcur hc hn hleaf ▸ h⟩
        | true =>
          rw [decodeBits_leaf hcur hc hn hleaf, Option.map_eq_some_iff] at h
          obtain ⟨⟨out', m⟩, hrest, heq⟩ := h
          cases heq
          exact .inr ⟨rfl, out', hrest, rfl⟩

/-- A walk over two pieces is a walk over the first, and one over the second from where that ends. -/
theorem decodeBits_append : decodeBits arena root cur (xs ++ ys) = some (out, n) ↔
    ∃ a m b, decodeBits arena root cur xs = some (a, m) ∧ decodeBits arena root m ys = some (b, n) ∧ out = a ++ b := by
  induction xs generalizing cur out with
  | nil => simp
  | cons bit xs ih =>
    constructor
    · intro h
      obtain ⟨nd, c, nd', hcur, hc, hn, ⟨hleaf, hrest⟩ | ⟨hleaf, out', hrest, rfl⟩⟩ := decodeBits_cons_cases h
      · obtain ⟨a, m, b, ha, hb, rfl⟩ := ih.1 hrest
        exact ⟨a, m, b, (decodeBits_inner hcur hc hn hleaf).trans ha, hb, rfl⟩
      · obtain ⟨a, m, b, ha, hb, rfl⟩ := ih.1 hrest
        exact ⟨nd'.sym :: a, m, b, by rw [decodeBits_leaf hcur hc hn hleaf, ha]; rfl, hb, rfl⟩
    · rintro ⟨a, m, b, ha, hb, rfl⟩
      obtain ⟨nd, c, nd', hcur, hc, hn, ⟨hleaf, hrest⟩ | ⟨hleaf, a', hrest, rfl⟩⟩ := decodeBits_cons_cases ha
      · exact (decodeBits_inner hcur hc hn hleaf).trans (ih.2 ⟨a, m, b, hrest, hb, rfl⟩)
      · rw [List.cons_append, decodeBits_leaf hcur hc hn hleaf, ih.2 ⟨a', m, b, hrest, hb, rfl⟩]
        rfl

end Walk

section ByteRule

variable {s : State} {b : Byte} {bit : Bool} {bits after : List Bool} {out : List Byte} {n : NodeIdx} {nd : Node}
  {q : List Item}

/-- The bits of `RBYTE` still to be read are the last `RCNT` of them (R41). -/
structure Unread (bits : List Bool) (s : State) : Prop where
  suffix : bits <:+ bitsOfByte s.rbyte
  count : s.rcnt.val = bits.length

/-- The state once bits are decoded: their bytes are put out, the bits `rest` stay unread and the walk stands at `n`. -/
def State.decoded (out : List Byte) (rest : List Bool) (n : NodeIdx) (s : State) : State :=
  { s with outq := s.outq ++ out, rcnt := Fin.ofNat 9 rest.length, cur := n }

theorem Unread.eq_ofNat (h : Unread bits s) : s.rcnt = Fin.ofNat 9 bits.length :=
  Fin.ext (by simp [← h.count])

theorem Unread.decoded_nil (h : Unread bits s) : s.decoded [] bits s.cur = s := by
  rw [State.decoded, ← h.eq_ofNat, List.append_nil]

theorem Unread.decoded (h : Unread (bits ++ after) s) (out : List Byte) (n : NodeIdx) :
    Unread after (s.decoded out after n) where
  suffix := (List.suffix_append bits after).trans h.suffix
  count := by
    have hlt := s.rcnt.isLt
    have hcount := h.count
    rw [List.length_append] at hcount
    exact Nat.mod_eq_of_lt (by omega)

theorem decoded_decoded (a c : List Byte) (x y : List Bool) (m : NodeIdx) :
    (s.decoded a x m).decoded c y n = s.decoded (a ++ c) y n := by
  simp [State.decoded]

/-- The reader gives the first unread bit and leaves the others (R224). -/
theorem readBit_unread (h : Unread (bit :: bits) s) : readBit s = .ok bit (s.decoded [] bits s.cur) := by
  obtain ⟨⟨pre, hpre⟩, hcount⟩ := h
  rw [List.length_cons] at hcount
  have hlt := s.rcnt.isLt
  have hlen : pre.length + (bits.length + 1) = 8 := by
    simpa [bitsOfByte_length] using congrArg List.length hpre
  have hbit : s.rbyte.getLsbD bits.length = bit := by
    have hget := getD_bitsOfByte s.rbyte (i := pre.length) (by omega)
    rw [← hpre, show 7 - pre.length = bits.length by omega] at hget
    simpa using hget.symm
  have hrcnt : (⟨s.rcnt.val - 1, by omega⟩ : Fin 9) = Fin.ofNat 9 bits.length :=
    Fin.ext (by simp only [Fin.val_ofNat]; omega)
  rw [readBit_pending (fun h0 => by simp [h0] at hcount), hrcnt, hcount, Nat.add_sub_cancel, hbit]
  simp [State.decoded]

/-- A step of the walk is the walk over one bit. -/
theorem bitstep_ok (h : decodeBits s.arena s.root s.cur [bit] = some (out, n)) :
    bitstep bit s = .ok () { s with outq := s.outq ++ out, cur := n } := by
  obtain ⟨nd, c, nd', hcur, hc, hn, hend⟩ := decodeBits_cons_cases h
  rw [bitstep, readNode_eq_ok.2 ⟨hcur, rfl⟩, Res.andThen_ok]
  simp only [hc]
  rw [readNode_eq_ok (s := { s with cur := c }).2 ⟨hn, rfl⟩, Res.andThen_ok]
  obtain ⟨hleaf, hrest⟩ | ⟨hleaf, out', hrest, rfl⟩ := hend
  · cases hrest
    simp [hleaf]
  · cases hrest
    simp [hleaf, State.emit]

/-- Where the child is absent the walk faults at the node it stands at. -/
theorem bitstep_absent (hcur : nodeAt s.arena s.cur = some nd) (hc : nd.child bit = none) :
    bitstep bit s = .raised .badPath (s.cur.zeroExtend 32) s := by
  rw [bitstep, readNode_eq_ok.2 ⟨hcur, rfl⟩, Res.andThen_ok]
  simp only [hc]

theorem decodeBit_ok (hu : Unread (bit :: bits) s) (h : decodeBits s.arena s.root s.cur [bit] = some (out, n)) :
    decodeBit s = .ok () (s.decoded out bits n) := by
  rw [decodeBit, readBit_unread hu, Res.andThen_ok, bitstep_ok (s := s.decoded [] bits s.cur) h]
  simp [State.decoded]

theorem decodeBit_absent (hu : Unread (bit :: bits) s) (hcur : nodeAt s.arena s.cur = some nd) (hc : nd.child bit = none) :
    decodeBit s = .raised .badPath (s.cur.zeroExtend 32) (s.decoded [] bits s.cur) := by
  rw [decodeBit, readBit_unread hu, Res.andThen_ok]
  exact bitstep_absent (s := s.decoded [] bits s.cur) hcur hc

/-- Bit by bit the engine does the walk over the bits. -/
theorem repeatTimes_decodeBit (hu : Unread (bits ++ after) s)
    (h : decodeBits s.arena s.root s.cur bits = some (out, n)) :
    repeatTimes decodeBit bits.length s = .ok () (s.decoded out after n) := by
  induction bits generalizing s out with
  | nil =>
    cases h
    exact congrArg (Res.ok ()) (Unread.decoded_nil hu).symm
  | cons bit bits ih =>
    obtain ⟨a, m, c, hbit, hrest, rfl⟩ := decodeBits_append (xs := [bit]).1 h
    rw [List.length_cons, repeatTimes_succ, decodeBit_ok (bits := bits ++ after) hu hbit, Res.andThen_ok,
      ih (s := s.decoded a (bits ++ after) m) (hu.decoded (bits := [bit]) a m) hrest, decoded_decoded]

theorem repeatTimes_add (body : State → Res Unit) (j k : Nat) (s : State) :
    repeatTimes body (j + k) s = (repeatTimes body j s).andThen fun _ t => repeatTimes body k t := by
  induction j generalizing s with
  | zero => simp
  | succ j ih => simp [Nat.succ_add, ih, Res.andThen_assoc]

theorem unread_byte (b : Byte) (s : State) : Unread (bitsOfByte b) { s with rbyte := b, rcnt := 8 } :=
  ⟨List.suffix_rfl, rfl⟩

theorem decompressByte_ok (h : decodeBits s.arena s.root s.cur (bitsOfByte b) = some (out, n)) :
    decompressByte b s = .ok () ({ s with rbyte := b }.decoded out [] n) :=
  repeatTimes_decodeBit (bits := bitsOfByte b) (after := []) (by simpa using unread_byte b s) h

theorem decompressByte_absent (hb : bitsOfByte b = bits ++ bit :: after)
    (h : decodeBits s.arena s.root s.cur bits = some (out, n)) (hn : nodeAt s.arena n = some nd)
    (hc : nd.child bit = none) :
    decompressByte b s = .raised .badPath (n.zeroExtend 32) ({ s with rbyte := b }.decoded out after n) := by
  have hu : Unread (bits ++ bit :: after) { s with rbyte := b, rcnt := 8 } := hb ▸ unread_byte b s
  have hlen : 8 = bits.length + (after.length + 1) := by simpa [bitsOfByte_length] using congrArg List.length hb
  rw [decompressByte, hlen, repeatTimes_add, repeatTimes_decodeBit hu h, Res.andThen_ok, repeatTimes_succ,
    decodeBit_absent (hu.decoded out n) hn hc, Res.andThen_raised, decoded_decoded, List.append_nil]
  rfl

theorem decompressStart_valid (hv : s.treeValid = true) :
    decompressStart s = .ok () { s with rbyte := 0#8, rcnt := 0, cur := s.root } :=
  if_neg (by simp [hv])

theorem exec_decompress_start (hp : s.phase = .start) (hv : s.treeValid = true) :
    exec .decompress s = .next { s with rbyte := 0#8, rcnt := 0, cur := s.root, phase := .run } :=
  (streamStep_start hp).trans (congrArg (stepEnd _) (decompressStart_valid hv))

theorem exec_decompress_eos (hp : s.phase = .run) (hq : s.inq = .eos :: q) :
    exec .decompress s = .next { s with inq := q, busy := false } :=
  streamStep_eos (endRule := decompressEnd) hp hq

theorem exec_decompress_byte (hp : s.phase = .run) (hq : s.inq = .byte b :: q)
    (h : decodeBits s.arena s.root s.cur (bitsOfByte b) = some (out, n)) :
    exec .decompress s = .next { s with inq := q, outq := s.outq ++ out, rbyte := b, rcnt := 0, cur := n } :=
  (streamStep_byte hp hq).trans (congrArg (stepEnd id) (decompressByte_ok (s := { s with inq := q }) h))

theorem exec_decompress_absent (hp : s.phase = .run) (hq : s.inq = .byte b :: q) (hb : bitsOfByte b = bits ++ bit :: after)
    (h : decodeBits s.arena s.root s.cur bits = some (out, n)) (hn : nodeAt s.arena n = some nd)
    (hc : nd.child bit = none) :
    ∃ t, exec .decompress s = .next t ∧ t.rcnt.val = after.length ∧
      t = { s with inq := q, outq := s.outq ++ out, rbyte := b, rcnt := t.rcnt, cur := n, err := 6#8,
                   errinfo := n.zeroExtend 32, busy := false } := by
  have hbyte := decompressByte_absent (s := { s with inq := q }) hb h hn hc
  have hu : Unread ((bits ++ [bit]) ++ after) { s with rbyte := b, rcnt := 8 } := by
    rw [← List.append_cons, ← hb]
    exact unread_byte b s
  exact ⟨_, streamStep_byte_raised hp hq hbyte, (hu.decoded out n).count, rfl⟩

/-- Settles O31: the two equations of the start rule and of `eos`. -/
theorem decompressStartAndEnd : Obligations.DecompressStartAndEnd :=
  ⟨fun _ => exec_decompress_start, fun _ _ => exec_decompress_eos⟩

/-- Settles O32: the byte rule is the walk over the byte's bits (`repeatTimes_decodeBit`), and at an absent child the walk so
far and then the raise. -/
theorem decompressWalksEveryBit : Obligations.DecompressWalksEveryBit :=
  fun _ _ _ hp hq => ⟨fun _ _ => exec_decompress_byte hp hq, fun _ _ _ _ _ _ => exec_decompress_absent hp hq⟩

end ByteRule

section Stream

variable {s : State} {bs : List Byte} {q : List Item} {bit : Bool} {bits after : List Bool} {out : List Byte} {n : NodeIdx}
  {nd : Node}

/-- `DECOMPRESS` is between its steps and no turn is scheduled. -/
structure Decompressing (s : State) : Prop where
  busy : s.busy = true
  phase : s.phase = .run
  command : decode s.cmdr = .ok .decompress
  sched : s.sched = []

/-- The state once whole bytes are decoded, `b` being the last one read and `q` left in `INQ`. -/
def State.decodedBytes (out : List Byte) (b : Byte) (n : NodeIdx) (q : List Item) (s : State) : State :=
  { s with inq := q, outq := s.outq ++ out, rbyte := b, rcnt := 0, cur := n }

theorem Decompressing.step_eq (h : Decompressing s) (hq : s.inq ≠ []) : step s = exec .decompress s :=
  step_command h.sched (by simp [State.engineEnabled, h.busy, hq]) h.command

theorem Decompressing.decodedBytes (h : Decompressing s) (out : List Byte) (b : Byte) (n : NodeIdx) (q : List Item) :
    Decompressing (s.decodedBytes out b n q) := ⟨h.busy, h.phase, h.command, h.sched⟩

theorem decodedBytes_decodedBytes (a c : List Byte) (b d : Byte) (m n : NodeIdx) (p q : List Item) :
    (s.decodedBytes a b m p).decodedBytes c d n q = s.decodedBytes (a ++ c) d n q := by
  simp [State.decodedBytes]

/-- As many events as there are bytes are the walk over their bits, by induction on the bytes. -/
theorem Decompressing.run_decodes (h : Decompressing s) (hr : s.rcnt = 0) (hq : s.inq = bs.map Item.byte ++ q)
    (hd : decodeBits s.arena s.root s.cur (unpack bs) = some (out, n)) :
    ∃ b, Sys2Proof.core.run bs.length s = .next (s.decodedBytes out b n q) := by
  induction bs generalizing s out with
  | nil =>
    cases hd
    have hsame : s.decodedBytes [] s.rbyte s.cur q = s := by
      rw [State.decodedBytes, ← hr, show q = s.inq from hq.symm, List.append_nil]
    exact ⟨s.rbyte, congrArg Host.Outcome.next hsame.symm⟩
  | cons b bs ih =>
    obtain ⟨a, m, c, hbyte, hrest, rfl⟩ := decodeBits_append.1 (unpack_cons b bs ▸ hd)
    have hstep := (h.step_eq (by simp [hq])).trans (exec_decompress_byte h.phase hq hbyte)
    obtain ⟨d, hrun⟩ := ih (h.decodedBytes a b m (bs.map Item.byte ++ q)) rfl rfl hrest
    exact ⟨d, (run_succ hstep).trans (decodedBytes_decodedBytes a c b d m n _ q ▸ hrun)⟩

theorem Starting.begins (h : Starting .decompress s) (hv : s.treeValid = true) :
    step s = .next { s with rbyte := 0#8, rcnt := 0, cur := s.root, phase := .run } ∧
      Decompressing { s with rbyte := 0#8, rcnt := 0, cur := s.root, phase := .run } := by
  obtain ⟨hbusy, hphase, hcmdr, hsched⟩ := h
  have hd : decode s.cmdr = .ok .decompress := hcmdr ▸ decode_encode .decompress
  exact ⟨(step_command hsched (by simp [State.engineEnabled, hbusy, hphase]) hd).trans (exec_decompress_start hphase hv),
    hbusy, rfl, hd, hsched⟩

/-- A stream whose bits can all be walked is decoded to its end, and `eos` ends the command. -/
theorem Starting.run_completes (h : Starting .decompress s) (hv : s.treeValid = true)
    (hq : s.inq = bs.map Item.byte ++ .eos :: q) (hd : decodeBits s.arena s.root s.root (unpack bs) = some (out, n)) :
    ∃ t, Sys2Proof.core.run (bs.length + 2) s = .next t ∧
      t = { s with inq := q, outq := s.outq ++ out, rbyte := t.rbyte, rcnt := 0, cur := t.cur, phase := .run,
                   busy := false } := by
  obtain ⟨hstart, hbegun⟩ := h.begins hv
  obtain ⟨b, hrun⟩ := hbegun.run_decodes rfl hq hd
  have hend := hbegun.decodedBytes out b n (.eos :: q)
  have heos := (hend.step_eq (List.cons_ne_nil _ _)).trans (exec_decompress_eos hend.phase rfl)
  exact ⟨_, (run_succ hstart).trans ((run_add hrun).trans (run_succ heos)), rfl⟩

/-- A position less than a byte before the end of a stream lies in its last byte. -/
theorem exists_last_byte (h : unpack bs = bits ++ bit :: after) (hlen : after.length < 8) :
    ∃ ys b before, bs = ys ++ [b] ∧ bits = unpack ys ++ before ∧ bitsOfByte b = before ++ bit :: after := by
  cases bs using List.reverseRecOn with
  | nil => simp [unpack] at h
  | append_singleton ys b =>
    have hlast : unpack [b] = bitsOfByte b := List.append_nil _
    rw [unpack_append, hlast] at h
    have hall := congrArg List.length h
    simp only [List.length_append, List.length_cons, bitsOfByte_length] at hall
    obtain ⟨before, rfl⟩ : unpack ys <+: bits :=
      List.prefix_of_prefix_length_le ⟨_, h⟩ (List.prefix_append _ _) (by omega)
    rw [List.append_assoc] at h
    exact ⟨ys, b, before, rfl, rfl, List.append_cancel_left h⟩

/-- A stream whose walk meets an absent child in the last byte faults there, with nothing more of `INQ` taken. -/
theorem Starting.run_faults (h : Starting .decompress s) (hv : s.treeValid = true) (hq : s.inq = bs.map Item.byte ++ q)
    (hbits : unpack bs = bits ++ bit :: after) (hlen : after.length < 8)
    (hd : decodeBits s.arena s.root s.root bits = some (out, n)) (hn : nodeAt s.arena n = some nd)
    (hc : nd.child bit = none) :
    ∃ t, Sys2Proof.core.run (bs.length + 1) s = .next t ∧ t.rcnt.val = after.length ∧
      t = { s with inq := q, outq := s.outq ++ out, rbyte := t.rbyte, rcnt := t.rcnt, cur := n, phase := .run, err := 6#8,
                   errinfo := n.setWidth 32, busy := false } := by
  obtain ⟨ys, b, before, rfl, rfl, hb⟩ := exists_last_byte hbits hlen
  obtain ⟨a, m, c, ha, hc', rfl⟩ := decodeBits_append.1 hd
  obtain ⟨hstart, hbegun⟩ := h.begins hv
  rw [List.map_append, List.append_assoc] at hq
  obtain ⟨d, hrun⟩ := hbegun.run_decodes rfl hq ha
  have hlast := hbegun.decodedBytes a d m (.byte b :: q)
  obtain ⟨t, hexec, hrcnt, ht⟩ := exec_decompress_absent hlast.phase rfl hb hc' hn hc
  have hfault := (hlast.step_eq (List.cons_ne_nil _ _)).trans hexec
  refine ⟨t, ?_, hrcnt, ?_⟩
  · rw [List.length_append]
    exact (run_succ hstart).trans ((run_add hrun).trans (run_succ hfault))
  · rw [ht, ← List.append_assoc]
    rfl

end Stream

section Tree

variable {arena : List Node} {root n m : NodeIdx} {bit : Bool} {p x : Code} {b : Byte} {out : List Byte}

/-- A node that is there and is no leaf. -/
def Inner (arena : List Node) (n : NodeIdx) : Prop := ∃ nd, nodeAt arena n = some nd ∧ nd.isLeaf = false

/-- A path that goes on leaves an inner node. -/
theorem inner_of_follow_cons (h : follow arena n (bit :: p) = some m) : Inner arena n := by
  rw [follow_cons, Option.bind_eq_some_iff] at h
  obtain ⟨c, hc, -⟩ := h
  obtain ⟨nd, hn, hc⟩ := Option.bind_eq_some_iff.1 hc
  exact ⟨nd, hn, by_contra fun hleaf => by simp [child_eq_none (by simpa using hleaf) bit] at hc⟩

theorem follow_append (p q : Code) : follow arena n (p ++ q) = (follow arena n p).bind (follow arena · q) := by
  induction p generalizing n with
  | nil => rfl
  | cons bit p ih => simp [follow_cons, ih, Option.bind_assoc]

/-- The walk to an inner node emits nothing: every node on the way is an inner one too. -/
theorem decodeBits_to_inner (h : follow arena n p = some m) (hm : Inner arena m) :
    decodeBits arena root n p = some ([], m) := by
  induction p generalizing n with
  | nil =>
    cases h
    rfl
  | cons bit p ih =>
    rw [follow_cons, Option.bind_eq_some_iff] at h
    obtain ⟨c, hc, hp⟩ := h
    obtain ⟨nd, hn, hc⟩ := Option.bind_eq_some_iff.1 hc
    obtain ⟨nd', hn', hinner⟩ : Inner arena c := by
      cases p with
      | nil =>
        cases hp
        exact hm
      | cons bit' p => exact inner_of_follow_cons hp
    rw [decodeBits_inner hn hc hn' hinner, ih hp]

/-- The walk over a path that goes on emits nothing, and ends where the path leads. -/
theorem decodeBits_proper (h : follow arena n (p ++ bit :: x) = some m) :
    ∃ c, follow arena n p = some c ∧ decodeBits arena root n p = some ([], c) := by
  rw [follow_append, Option.bind_eq_some_iff] at h
  obtain ⟨c, hc, hx⟩ := h
  exact ⟨c, hc, decodeBits_to_inner hc (inner_of_follow_cons hx)⟩

/-- The walk over the path to a leaf emits the leaf's byte and ends at the root. -/
theorem LeafAt.decodeBits_eq (h : LeafAt arena n p b) (hp : p ≠ []) :
    decodeBits arena root n p = some ([b], root) := by
  obtain ⟨m, nd, hm, hnd, hleaf, rfl⟩ := h
  cases p using List.reverseRecOn with
  | nil => contradiction
  | append_singleton p bit =>
    obtain ⟨c, hc, hwalk⟩ := decodeBits_proper (root := root) hm
    obtain ⟨c', nd', hc', hnd', hchild⟩ := follow_concat.1 hm
    cases hc.symm.trans hc'
    exact decodeBits_append.2 ⟨[], c, _, hwalk, decodeBits_leaf hnd' hchild hnd hleaf, rfl⟩

/-- The walk over codes emits their symbols and ends at the root (R264). -/
theorem decodeBits_codes {code : Symbol → Code} (cs : List Symbol)
    (h : ∀ c ∈ cs, code c ≠ [] ∧ LeafAt arena root (code c) (symByte c)) :
    decodeBits arena root root (cs.flatMap code) = some (cs.map symByte, root) := by
  induction cs with
  | nil => rfl
  | cons c cs ih =>
    obtain ⟨⟨hne, hleaf⟩, hcs⟩ := List.forall_mem_cons.1 h
    exact decodeBits_append.2 ⟨_, _, _, hleaf.decodeBits_eq hne, ih hcs, rfl⟩

/-- The walk over `p` zero bits from the root, the leftmost leaf being at depth `d`: one copy of its byte for each `d` of
them (R263). -/
theorem decodeBits_zeros {d : Nat} (hd : 0 < d) (h : LeafAt arena root (List.replicate d false) b) (p : Nat) :
    ∃ m, decodeBits arena root root (List.replicate p false) = some (List.replicate (p / d) b, m) := by
  induction p using Nat.strongRecOn with
  | ind p ih =>
    obtain hlt | hge := Nat.lt_or_ge p d
    · obtain ⟨k, rfl⟩ := Nat.exists_eq_add_of_lt hlt
      obtain ⟨l, -, hl, -⟩ := h
      rw [Nat.add_assoc, List.replicate_add, List.replicate_succ] at hl
      obtain ⟨c, -, hwalk⟩ := decodeBits_proper (root := root) hl
      exact ⟨c, by rw [hwalk, Nat.div_eq_of_lt hlt]; rfl⟩
    · obtain ⟨k, rfl⟩ := Nat.exists_eq_add_of_le hge
      obtain ⟨m, hm⟩ := ih k (by omega)
      refine ⟨m, ?_⟩
      rw [List.replicate_add, Nat.add_div_left k hd, List.replicate_succ]
      exact decodeBits_append.2 ⟨[b], root, _, h.decodeBits_eq (by simp [hd.ne']), hm, rfl⟩

/-- The walk over at most as many zero bits as the left chain is long emits nothing (R263). -/
theorem decodeBits_chain {d p : Nat} {nd : Node} (h : follow arena root (List.replicate d false) = some m)
    (hnd : nodeAt arena m = some nd) (hend : d = 0 ∨ nd.isLeaf = false) (hp : p ≤ d) :
    ∃ c, follow arena root (List.replicate p false) = some c ∧
      decodeBits arena root root (List.replicate p false) = some ([], c) := by
  obtain hlt | rfl := hp.lt_or_eq
  · obtain ⟨k, rfl⟩ := Nat.exists_eq_add_of_lt hlt
    rw [Nat.add_assoc, List.replicate_add, List.replicate_succ] at h
    exact decodeBits_proper h
  · obtain rfl | hinner := hend
    · exact ⟨root, rfl, rfl⟩
    · exact ⟨m, h, decodeBits_to_inner h ⟨nd, hnd, hinner⟩⟩

end Tree

section RoundTrip

/-- Settles O33: the stream's bits are the codes and the padding (`unpack_pack`), the walk over the codes emits the symbols
(`decodeBits_codes`), and the walk over the padding is `decodeBits_zeros` with a leftmost leaf, or `decodeBits_chain` as far
as the left chain goes. -/
theorem roundTripWithSpuriousTail : Obligations.RoundTripWithSpuriousTail := by
  rintro s cs rest ⟨hv, -, hmatched⟩ hstarting hne stream p hq
  have hbits : unpack stream = cs.flatMap s.codeAt ++ List.replicate p false := unpack_pack _
  have hcodes : decodeBits s.arena s.root s.root (cs.flatMap s.codeAt) = some (cs.map symByte, s.root) :=
    decodeBits_codes cs fun c hc => ⟨hne c hc, hmatched c (hne c hc)⟩
  refine ⟨fun d0 s0 hpos hleaf => ?leaf, fun d1 m nd hm hnd hleft hend => ⟨fun hle => ?inside, fun hlt => ?beyond⟩⟩
  case leaf =>
    obtain ⟨n, hzeros⟩ := decodeBits_zeros hpos hleaf p
    rw [List.append_assoc]
    exact hstarting.run_completes hv hq (hbits ▸ decodeBits_append.2 ⟨_, _, _, hcodes, hzeros, rfl⟩)
  case inside =>
    obtain ⟨n, -, hzeros⟩ := decodeBits_chain hm hnd hend hle
    exact hstarting.run_completes hv hq
      (hbits ▸ decodeBits_append.2 ⟨_, _, _, hcodes, hzeros, (List.append_nil _).symm⟩)
  case beyond =>
    obtain ⟨n, hn, hzeros⟩ := decodeBits_chain hm hnd hend le_rfl
    cases hm.symm.trans hn
    have hpad : List.replicate p false = List.replicate d1 false ++ false :: List.replicate (p - d1 - 1) false := by
      rw [← List.replicate_succ, ← List.replicate_add, show d1 + (p - d1 - 1 + 1) = p by omega]
    have hp : p < 8 := Nat.mod_lt _ (by decide)
    rw [hpad, ← List.append_assoc] at hbits
    have hfault := hstarting.run_faults hv hq hbits (by simp; omega)
      (decodeBits_append.2 ⟨_, _, _, hcodes, hzeros, (List.append_nil _).symm⟩) hnd hleft
    simpa only [List.length_replicate] using hfault

end RoundTrip

end Sys2Proof.Machine
end
